-- ==== Sys2Proof/Word.lean ====
section
/-! DEFINITION. The words that cross a host link or the flash bus (spec/00_scope.md, 2.3). -/

namespace Sys2Proof

/-- Eight bits: a tag, a code, an opcode, one byte of data. -/
abbrev Byte := BitVec 8

/-- Sixteen bits: a term, a generation, an epoch, an admission number, a check value. -/
abbrev Half := BitVec 16

/-- Thirty-two bits: a byte offset or a flash byte address. -/
abbrev Word := BitVec 32

end Sys2Proof
end

