-- ==== Sys2Proof/Config.lean ====
section
/-! DEFINITION. What is fixed for every AJ-340: sizes and limits of the manual. The manual leaves the result of no
command open, so there is no opaque free value here. -/

namespace Sys2Proof.Config

/-- Region records, numbered 0..31 (R1). -/
abbrev regionCount : Nat := 32

/-- Exchange entries of a port (R134). -/
abbrev slotCount : Nat := 8

/-- Bytes of a sector (00_scope.md, 2.3). -/
def sectorBytes : Nat := 4096

/-- Bytes of a page (00_scope.md, 2.3). -/
def pageBytes : Nat := 256

/-- Regions held plus claim records waiting, at most, for one port (R28). -/
def leaseLimit : Nat := 4

/-- Claim records of one claim queue, at most (R31, R32). -/
def queueLimit : Nat := 2

/-- Largest declared parameter length that is not over-long (R156, R158). -/
def maxDeclared : Nat := 288

/-- Largest payload of one entry (R135). -/
def maxPayload : Nat := 256

/-- Tries of the latch check in one step (R60). -/
def latchTries : Nat := 2

/-- Cycles of the 100 MHz internal clock in the 80 ns between two transactions (R97, R98). -/
def gapCycles : Nat := 8

end Sys2Proof.Config
end

