-- ==== Sys2Proof/Syntax.lean ====
section
/-! DEFINITION. The commands of the block: one constructor of Instr for each row of spec/opcode_table.json. -/

namespace Sys2Proof

/-- A host link (00_scope.md, 2.3). -/
inductive Port where
  | a | b | c
  deriving DecidableEq, Repr

/-- A flash device on the flash bus (00_scope.md, 2.3). -/
inductive Dev where
  | d0 | d1
  deriving DecidableEq, Repr

/-- The number of a region record (R1). -/
abbrev RegionId := Fin Config.regionCount

/-- The number of an exchange entry (R134). -/
abbrev Slot := Fin Config.slotCount

/-- The label field of R190: a length byte and eight bytes, of which those beyond the length are padding. -/
structure LabelField where
  length : Byte
  bytes  : Vector Byte 8
  deriving DecidableEq, Repr

/-- The expected epoch field of R190: a presence byte and the epoch. -/
structure EpochField where
  presence : Byte
  value    : Half
  deriving DecidableEq, Repr

/-- The 34 bytes of a profile record as R190 lays them out, before any of them is checked. -/
structure ProfileRecord where
  capacity       : Byte
  addressBytes   : Byte
  readOp         : Byte
  readDummy      : Byte
  readCmdLanes   : Byte
  readAddrLanes  : Byte
  readDataLanes  : Byte
  programOp      : Byte
  progCmdLanes   : Byte
  progAddrLanes  : Byte
  progDataLanes  : Byte
  eraseOp        : Byte
  writeEnableOp  : Byte
  statusOp       : Byte
  busyBit        : Byte
  busyPolarity   : Byte
  latchBit       : Byte
  failBit        : Byte
  clearPresence  : Byte
  clearOp        : Byte
  suspendPresence : Byte
  suspendOp      : Byte
  resumeOp       : Byte
  suspendedBit   : Byte
  idOp           : Byte
  idPresence     : Byte
  id0            : Byte
  id1            : Byte
  id2            : Byte
  resetLength    : Byte
  reset0         : Byte
  reset1         : Byte
  recoveryDelay  : Half
  deriving DecidableEq, Repr

/-- A request of one of the 21 kinds, with its parameters field by field in the order and at the widths of R190; or what an
entry holds of a frame that fails test 4 of R138: its kind code and its parameter bytes as received (R139). -/
inductive Request where
  | claim (region : Byte) (term wait : Half)
  | renew (region : Byte) (term : Half)
  | release (region : Byte)
  | watch (region : Byte)
  | unwatch (region : Byte)
  | findNumber (region : Byte)
  | findAddress (device : Byte) (address : Word)
  | findLabel (label : LabelField)
  | read (region : Byte) (offset : Word) (length : Half) (epoch : EpochField)
  | program (region : Byte) (offset : Word) (flags : Byte) (epoch : EpochField) (data : List Byte)
  | erase (region : Byte) (first : Half) (count : Word) (epoch : EpochField)
  | define (device : Byte) (base : Half) (count : Word) (label : LabelField) (readRights writeRights : Byte)
      (term : Half)
  | retire (region : Byte)
  | setRights (region : Byte) (readRights writeRights : Byte)
  | setProfile (device : Byte) (profile : ProfileRecord)
  | recover (device : Byte)
  | configure (setting : Byte) (value : Half)
  | cancel (target : Byte)
  | deviceInfo (device : Byte)
  | readSetting (setting : Byte)
  | setAttention (mask : Byte)
  | unread (kind : Byte) (params : List Byte)
  deriving DecidableEq, Repr

/-- A command to the block. Each constructor is one row of spec/opcode_table.json.

A request command carries a whole request frame with matching check bytes: its port, its tag and its parameters. An
end command carries the bytes the device shifted in. POWER_ON and RESETN_RELEASE carry the sampled ADMSEL pins and
which device's ID read reaches the bus first. -/
inductive Instr where
  | powerOn (admsel1 admsel0 : Bool) (first : Dev)
  | resetnAssert
  | resetnRelease (admsel1 admsel0 : Bool) (first : Dev)
  | msTick
  | usTick
  | leaseExpiry (region : RegionId)
  | waitExpiry (region : RegionId) (claimant : Port)
  | selectFall (p : Port)
  | selectRise (p : Port)
  | unknownLead (p : Port) (lead : Byte)
  | put (p : Port)
  | frameTooLong (p : Port) (tag kind : Byte) (declared : Half)
  | checkMismatch (p : Port) (tag kind : Byte) (params : List Byte) (check : Half)
  | unknownKind (p : Port) (tag kind : Byte) (params : List Byte)
  | claim (p : Port) (tag region : Byte) (term wait : Half)
  | renew (p : Port) (tag region : Byte) (term : Half)
  | release (p : Port) (tag region : Byte)
  | watch (p : Port) (tag region : Byte)
  | unwatch (p : Port) (tag region : Byte)
  | findNumber (p : Port) (tag region : Byte)
  | findAddress (p : Port) (tag device : Byte) (address : Word)
  | findLabel (p : Port) (tag : Byte) (label : LabelField)
  | read (p : Port) (tag region : Byte) (offset : Word) (length : Half) (epoch : EpochField)
  | program (p : Port) (tag region : Byte) (offset : Word) (flags : Byte) (epoch : EpochField) (data : List Byte)
  | erase (p : Port) (tag region : Byte) (first : Half) (count : Word) (epoch : EpochField)
  | define (p : Port) (tag device : Byte) (base : Half) (count : Word) (label : LabelField)
      (readRights writeRights : Byte) (term : Half)
  | retire (p : Port) (tag region : Byte)
  | setRights (p : Port) (tag region readRights writeRights : Byte)
  | setProfile (p : Port) (tag device : Byte) (profile : ProfileRecord)
  | recover (p : Port) (tag device : Byte)
  | configure (p : Port) (tag setting : Byte) (value : Half)
  | cancel (p : Port) (tag target : Byte)
  | deviceInfo (p : Port) (tag device : Byte)
  | readSetting (p : Port) (tag setting : Byte)
  | setAttention (p : Port) (tag mask : Byte)
  | take (p : Port)
  | takeDelivery (p : Port)
  | status (p : Port)
  | statusFlagsClear (p : Port)
  | linkReset (p : Port)
  | linkResetConfirm (p : Port) (confirm : Byte)
  | readDataEnd (d : Dev) (bytes : List Byte)
  | writeEnableEnd (d : Dev)
  | latchStatusEnd (d : Dev) (status : Byte)
  | pageProgramEnd (d : Dev)
  | sectorEraseEnd (d : Dev)
  | pollTurn (d : Dev)
  | pollStatusEnd (d : Dev) (status : Byte)
  | clearStatusEnd (d : Dev)
  | verifyReadEnd (d : Dev) (bytes : List Byte)
  | stepTimerExpiry (d : Dev)
  | dwellTimerExpiry (d : Dev)
  | suspendEnd (d : Dev)
  | suspendingStatusEnd (d : Dev) (status : Byte)
  | suspendTimerExpiry (d : Dev)
  | resumeEnd (d : Dev)
  | resumingStatusEnd (d : Dev) (status : Byte)
  | resetTransactionEnd (d : Dev)
  | recoveryDelayExpiry (d : Dev)
  | recoveryPollTurn (d : Dev)
  | recoveryStatusEnd (d : Dev) (status : Byte)
  | recoveryTimerExpiry (d : Dev)
  | idReadEnd (d : Dev) (id0 id1 id2 : Byte)
  deriving DecidableEq, Repr

end Sys2Proof
end

