-- ==== Sys2Proof/Machine/Requests.lean ====
section
/-! DEFINITION. What a host shifts in: bit and byte order, the frame check of R157, kind codes, parameter layouts and
accepted lengths of R190, the lead and confirm bytes of R192. -/

namespace Sys2Proof.Machine

/-- The two bytes of a 16-bit field, most significant first (00_scope.md, 2.3). -/
def halfBytes (h : Half) : List Byte := [h.extractLsb' 8 8, h.extractLsb' 0 8]

/-- The four bytes of a 32-bit field, most significant first (00_scope.md, 2.3). -/
def wordBytes (w : Word) : List Byte :=
  [w.extractLsb' 24 8, w.extractLsb' 16 8, w.extractLsb' 8 8, w.extractLsb' 0 8]

/-- The bits of a byte in the order of a host link's lines: most significant bit first (R152). -/
def bitsOf (b : Byte) : List Bool :=
  [b.getLsbD 7, b.getLsbD 6, b.getLsbD 5, b.getLsbD 4, b.getLsbD 3, b.getLsbD 2, b.getLsbD 1, b.getLsbD 0]

/-- The byte that bits spell, most significant bit first (R152). -/
def byteOf (bits : List Bool) : Byte := bits.foldl (fun b x => (b <<< 1) ||| (if x then 1#8 else 0#8)) 0#8

/-- One bit of the CRC-16: polynomial 1021h, no reflection (R157). -/
def crcBit (c : Half) : Half := if c.msb then (c <<< 1) ^^^ 0x1021#16 else c <<< 1

/-- One byte into the check register, most significant bit first (R157). -/
def crcByte (c : Half) (b : Byte) : Half :=
  crcBit (crcBit (crcBit (crcBit (crcBit (crcBit (crcBit (crcBit (c ^^^ (b.setWidth 16 <<< 8)))))))))

/-- The register before the first byte (R157). -/
def crcStart : Half := 0xFFFF#16

/-- The check value of a frame's bytes (R157). -/
def crc16 (bytes : List Byte) : Half := bytes.foldl crcByte crcStart

/-- Lead bytes (R192). -/
def leadPut : Byte := 0x51#8
def leadLinkReset : Byte := 0x52#8
def leadStatus : Byte := 0x53#8
def leadTake : Byte := 0x54#8

/-- The confirm byte of a LINK RESET that performs the port reset (R192). -/
def confirmReset : Byte := 0x6D#8

/-- The kind of a link transaction (R154, R192). -/
inductive LinkKind where
  | put | take | status | linkReset
  deriving DecidableEq, Repr

/-- The transaction a lead byte names, none for every other value (R154, R192). -/
def leadKind (b : Byte) : Option LinkKind :=
  if b = leadPut then some .put
  else if b = leadLinkReset then some .linkReset
  else if b = leadStatus then some .status
  else if b = leadTake then some .take
  else none

/-- A lead byte that names a transaction (R192). -/
def namesTransaction (b : Byte) : Bool := (leadKind b).isSome

end Sys2Proof.Machine

namespace Sys2Proof

open Sys2Proof.Machine

/-- The nine bytes of a label field (R190). -/
def LabelField.wire (l : LabelField) : List Byte := l.length :: l.bytes.toList

/-- The three bytes of an expected epoch field (R190). -/
def EpochField.wire (e : EpochField) : List Byte := e.presence :: halfBytes e.value

/-- The 34 bytes of a profile record (R190). -/
def ProfileRecord.wire (r : ProfileRecord) : List Byte :=
  [r.capacity, r.addressBytes, r.readOp, r.readDummy, r.readCmdLanes, r.readAddrLanes, r.readDataLanes,
   r.programOp, r.progCmdLanes, r.progAddrLanes, r.progDataLanes, r.eraseOp, r.writeEnableOp, r.statusOp,
   r.busyBit, r.busyPolarity, r.latchBit, r.failBit, r.clearPresence, r.clearOp,
   r.suspendPresence, r.suspendOp, r.resumeOp, r.suspendedBit, r.idOp, r.idPresence, r.id0, r.id1, r.id2,
   r.resetLength, r.reset0, r.reset1] ++ halfBytes r.recoveryDelay

/-- The kind code of a request (R190); of a frame that fails test 4 of R138, the code as received (R135). -/
def Request.code : Request → Byte
  | .claim .. => 0x11#8
  | .renew .. => 0x12#8
  | .release .. => 0x13#8
  | .watch .. => 0x14#8
  | .unwatch .. => 0x15#8
  | .findNumber .. => 0x16#8
  | .findAddress .. => 0x17#8
  | .findLabel .. => 0x18#8
  | .read .. => 0x21#8
  | .program .. => 0x22#8
  | .erase .. => 0x23#8
  | .define .. => 0x31#8
  | .retire .. => 0x32#8
  | .setRights .. => 0x33#8
  | .setProfile .. => 0x34#8
  | .recover .. => 0x35#8
  | .configure .. => 0x36#8
  | .cancel .. => 0x41#8
  | .deviceInfo .. => 0x42#8
  | .readSetting .. => 0x43#8
  | .setAttention .. => 0x44#8
  | .unread kind _ => kind

/-- The parameters and payload of a request, in the order of its kind's row (R190). -/
def Request.wire : Request → List Byte
  | .claim r t w => r :: (halfBytes t ++ halfBytes w)
  | .renew r t => r :: halfBytes t
  | .release r => [r]
  | .watch r => [r]
  | .unwatch r => [r]
  | .findNumber r => [r]
  | .findAddress d a => d :: wordBytes a
  | .findLabel l => l.wire
  | .read r o n e => r :: (wordBytes o ++ halfBytes n ++ e.wire)
  | .program r o f e data => r :: (wordBytes o ++ [f] ++ e.wire ++ data)
  | .erase r f n e => r :: (halfBytes f ++ wordBytes n ++ e.wire)
  | .define d b n l rr wr t => d :: (halfBytes b ++ wordBytes n ++ l.wire ++ [rr, wr] ++ halfBytes t)
  | .retire r => [r]
  | .setRights r rr wr => [r, rr, wr]
  | .setProfile d p => d :: p.wire
  | .recover d => [d]
  | .configure i v => i :: halfBytes v
  | .cancel t => [t]
  | .deviceInfo d => [d]
  | .readSetting i => [i]
  | .setAttention m => [m]
  | .unread _ params => params

namespace Machine

/-- Whether a kind code is in the table of R190 and accepts the parameter length (R138, test 4). -/
def acceptsFrame (kind : Byte) (len : Nat) : Bool :=
  match kind.toNat with
  | 0x11 => len == 5
  | 0x12 => len == 3
  | 0x13 => len == 1
  | 0x14 => len == 1
  | 0x15 => len == 1
  | 0x16 => len == 1
  | 0x17 => len == 5
  | 0x18 => len == 9
  | 0x21 => len == 10
  | 0x22 => 9 ≤ len && len ≤ 265
  | 0x23 => len == 10
  | 0x31 => len == 20
  | 0x32 => len == 1
  | 0x33 => len == 3
  | 0x34 => len == 35
  | 0x35 => len == 1
  | 0x36 => len == 3
  | 0x41 => len == 1
  | 0x42 => len == 1
  | 0x43 => len == 1
  | 0x44 => len == 1
  | _ => false

/-- The four header bytes of a request frame (R190). -/
def frameHead (tag kind : Byte) (declared : Half) : List Byte := tag :: kind :: halfBytes declared

/-- The bytes of a request frame that its check value covers (R157, R190). -/
def frameBody (tag kind : Byte) (params : List Byte) : List Byte :=
  frameHead tag kind (BitVec.ofNat 16 params.length) ++ params

/-- A whole request frame with the check bytes `check` (R190). -/
def frameWith (tag kind : Byte) (params : List Byte) (check : Half) : List Byte :=
  frameBody tag kind params ++ halfBytes check

/-- A whole request frame whose check bytes match (R157, R190). -/
def frameGood (tag kind : Byte) (params : List Byte) : List Byte :=
  frameWith tag kind params (crc16 (frameBody tag kind params))

end Machine

end Sys2Proof
end

