-- ==== Sys2Proof/WellFormed.lean ====
section
/-! DEFINITION. Which commands are well formed: the facts that make a command the row it names, and that hold of the
command alone, whatever the state. -/

namespace Sys2Proof

open Sys2Proof.Machine

/-- The command is a possible event of its row. A lead byte of UNKNOWN_LEAD names no transaction (R154), the length of
FRAME_TOO_LONG is above 288 and that of any other frame is not (R156, R158), the check of CHECK_MISMATCH differs (R158),
the frame of UNKNOWN_KIND fails test 4 of R138, the payload of a PROGRAM has at most 256 bytes (R190), and the bytes of a
read data transaction are 1 to 256 (R97). -/
def Instr.wellFormed : Instr → Bool
  | .unknownLead _ lead => !namesTransaction lead
  | .frameTooLong _ _ _ declared => decide (Config.maxDeclared < declared.toNat)
  | .checkMismatch _ tag kind params check =>
      decide (params.length ≤ Config.maxDeclared) && crc16 (frameBody tag kind params) != check
  | .unknownKind _ _ kind params =>
      decide (params.length ≤ Config.maxDeclared) && !acceptsFrame kind params.length
  | .program _ _ _ _ _ _ data => decide (data.length ≤ Config.maxPayload)
  | .readDataEnd _ bytes => decide (1 ≤ bytes.length) && decide (bytes.length ≤ Config.maxPayload)
  | .verifyReadEnd _ bytes => decide (1 ≤ bytes.length) && decide (bytes.length ≤ Config.maxPayload)
  | .powerOn .. | .resetnAssert | .resetnRelease .. | .msTick | .usTick | .leaseExpiry _ | .waitExpiry _ _
  | .selectFall _ | .selectRise _ | .put _ | .claim .. | .renew .. | .release .. | .watch .. | .unwatch ..
  | .findNumber .. | .findAddress .. | .findLabel .. | .read .. | .erase .. | .define .. | .retire ..
  | .setRights .. | .setProfile .. | .recover .. | .configure .. | .cancel .. | .deviceInfo ..
  | .readSetting .. | .setAttention .. | .take _ | .takeDelivery _ | .status _ | .statusFlagsClear _
  | .linkReset _ | .linkResetConfirm _ _ | .writeEnableEnd _ | .latchStatusEnd _ _ | .pageProgramEnd _
  | .sectorEraseEnd _ | .pollTurn _ | .pollStatusEnd _ _ | .clearStatusEnd _ | .stepTimerExpiry _
  | .dwellTimerExpiry _ | .suspendEnd _ | .suspendingStatusEnd _ _ | .suspendTimerExpiry _ | .resumeEnd _
  | .resumingStatusEnd _ _ | .resetTransactionEnd _ | .recoveryDelayExpiry _ | .recoveryPollTurn _
  | .recoveryStatusEnd _ _ | .recoveryTimerExpiry _ | .idReadEnd _ _ _ _ => true

end Sys2Proof
end

