-- ==== Sys2Proof/Machine/State.lean ====
section
/-! DEFINITION. The state of the AJ-340 as plain data, and its value right after reset. -/

namespace Sys2Proof.Machine

/-- A subset of the ports: rights and watch sets (R1, R5). -/
structure PortSet where
  a : Bool
  b : Bool
  c : Bool
  deriving DecidableEq, Repr

/-- One thing for each port. -/
structure PerPort (α : Type) where
  a : α
  b : α
  c : α
  deriving DecidableEq, Repr

/-- One thing for each device. -/
structure PerDev (α : Type) where
  d0 : α
  d1 : α
  deriving DecidableEq, Repr

/-- A reference to one exchange entry (R78, R143). -/
structure EntryRef where
  port : Port
  slot : Slot
  deriving DecidableEq, Repr

/-! ### The Exchange (R134 to R137) -/

/-- The state of an entry (R136). -/
inductive EntryState where
  | vacant | queued | waiting | active | answered | draining
  deriving DecidableEq, Repr

/-- The stop request of an erase range (R71, R135). -/
inductive StopRequest where
  | none | cancel | leaseLost | retired | portReset
  deriving DecidableEq, Repr

/-- A result code (R191). -/
inductive Result where
  | done | cancelled | tooLate | unknownTag | malformed | notAdmin | noRegion | noRight | notHolder
  | held | alreadyHolder | alreadyWaiting | leaseLimit | waitExpired | leaseLost | retired | stale
  | badRange | tableFull | overlap | labelTaken | busy | badSetting | deviceAbsent | deviceFault | deviceTimeout
  | programFail | eraseFail | verifyMismatch | writeEnableFail
  deriving DecidableEq, Repr

/-- Three ID bytes in the order received (R120). -/
structure DeviceId where
  b0 : Byte
  b1 : Byte
  b2 : Byte
  deriving DecidableEq, Repr

/-- Why a device is ABSENT (R78, R94). -/
inductive AbsentReason where
  | noResponse | idMismatch
  deriving DecidableEq, Repr

/-- What an answer carries beyond its result and its payload (R135, R191). Lookups, DEVICE_INFO and READ_SETTING carry
their record in the payload, a READ its data. -/
inductive Values where
  | none
  | read (generation : Half) (unsettled : Bool)
  | mismatch (offset : Word) (count : Nat)
  | progress (sectors : Nat)
  | claim (term : Nat) (generation : Half)
  | term (term : Nat)
  | generation (generation : Half)
  | watch (generation epoch : Half)
  | lookup (epoch : Half)
  | define (region : RegionId) (epoch : Half)
  | epoch (epoch : Half)
  | probed (id : DeviceId)
  | absent (id : DeviceId) (reason : AbsentReason)
  | record
  | configure (setting : Byte) (now before : Nat)
  | mask (mask : Byte)
  deriving DecidableEq, Repr

/-- One exchange entry (R135). -/
structure Entry where
  state     : EntryState
  tag       : Option Byte
  kind      : Option Byte
  number    : Option Half
  device    : Option Dev
  region    : Option RegionId
  request   : Option Request
  progress  : Nat
  stop      : StopRequest
  result    : Option Result
  values    : Values
  payload   : List Byte
  deriving DecidableEq, Repr

/-- The VACANT column of R135. -/
def Entry.vacant : Entry :=
  { state := .vacant, tag := none, kind := none, number := none, device := none, region := none, request := none,
    progress := 0, stop := .none, result := none, values := .none, payload := [] }

/-- The Exchange of one port (R134). -/
structure Exchange where
  entries : Vector Entry Config.slotCount
  answers : List Slot
  order   : List Slot
  counter : Half
  deriving DecidableEq, Repr

/-- The Exchange after power-on and RESETN (R134). -/
def Exchange.initial : Exchange :=
  { entries := Vector.replicate Config.slotCount Entry.vacant, answers := [], order := [], counter := 0#16 }

/-! ### The Notice Unit (R176) -/

/-- The kind of a notice (R175). -/
inductive NoticeKind where
  | changed | leaseLost | retired
  deriving DecidableEq, Repr

/-- A notice record (R176). -/
structure Notice where
  region     : RegionId
  kind       : NoticeKind
  generation : Half
  deriving DecidableEq, Repr

/-! ### The Host Link Interface (R153) -/

/-- The receive phase (R153). -/
inductive Phase where
  | idle | lead | putHeader | putBody | putCheck | takeOut | statusOut | resetConfirm | ignored
  deriving DecidableEq, Repr

/-- The item a TAKE is shifting (R159). -/
inductive TakeItem where
  | answer (slot : Slot)
  | notice (record : Notice)
  | empty
  deriving DecidableEq, Repr

/-- The three link flags (R162). -/
structure LinkFlags where
  overrun    : Bool
  frameError : Bool
  tagClash   : Bool
  deriving DecidableEq, Repr

/-- The attention mask: true is masked (R164). -/
structure Mask where
  answers : Bool
  notices : Bool
  flags   : Bool
  deriving DecidableEq, Repr

/-- The link record of one port (R153), with the level of its select line and the bits sampled of the byte that is not yet
complete (R152). `shiftOut` holds the bytes the data output still has to send in the transaction, the byte on the line
first: the link status byte, the two bytes of a STATUS or the frame of a TAKE; after them it sends 00h (R192). -/
structure Link where
  selectLow : Bool
  bits      : List Bool
  phase     : Phase
  kind      : Option LinkKind
  count     : Nat
  rxBuffer  : List Byte
  crc       : Half
  declared  : Half
  item      : Option TakeItem
  shiftOut  : List Byte
  flags     : LinkFlags
  mask      : Mask
  deriving DecidableEq, Repr

/-- The link record after power-on and RESETN (R153), with the select line high. DESIGN CHOICE for the fields the spec
gives no reset value: kind, count, crc, declared (unsafe, log 12), and the line's level (unsafe, log 5). -/
def Link.initial : Link :=
  { selectLow := false, bits := [], phase := .idle, kind := none, count := 0, rxBuffer := [], crc := 0xFFFF#16,
    declared := 0#16, item := none, shiftOut := [], flags := ⟨false, false, false⟩, mask := ⟨false, false, false⟩ }

/-! ### The Region Table (R1) -/

/-- The state of a region (R1, 1.2). -/
inductive RegionState where
  | free | opened | leased | releasing | closing | retiring
  deriving DecidableEq, Repr

/-- A claim record (R1, R31). -/
structure ClaimRecord where
  port  : Port
  term  : Nat
  wait  : Nat
  slot  : Slot
  deriving DecidableEq, Repr

/-- A region record (R1), with the waiting RELEASE and its outstanding set (R39, R143). -/
structure Region where
  state         : RegionState
  device        : Option Dev
  baseSector    : Nat
  sectorCount   : Nat
  label         : List Byte
  readRights    : PortSet
  writeRights   : PortSet
  defaultTerm   : Nat
  holder        : Option Port
  remaining     : Nat
  granted       : Option Nat
  dirty         : Bool
  generation    : Half
  queue         : List ClaimRecord
  watch         : PortSet
  pendingRetire : Option EntryRef
  release       : Option Slot
  outstanding   : List Slot
  deriving DecidableEq, Repr

/-- The empty set of ports. -/
def PortSet.empty : PortSet := ⟨false, false, false⟩

/-- All three ports. -/
def PortSet.all : PortSet := ⟨true, true, true⟩

/-- The FREE column of R1. -/
def Region.free : Region :=
  { state := .free, device := none, baseSector := 0, sectorCount := 0, label := [], readRights := .empty,
    writeRights := .empty, defaultTerm := 0, holder := none, remaining := 0, granted := none, dirty := false,
    generation := 0#16, queue := [], watch := .empty, pendingRetire := none, release := none, outstanding := [] }

/-- The one-member set of the administrator port, or the empty set (R9). -/
def PortSet.ofAdmin : Option Port → PortSet
  | none => ⟨false, false, false⟩
  | some .a => ⟨true, false, false⟩
  | some .b => ⟨false, true, false⟩
  | some .c => ⟨false, false, true⟩

/-- A preset region (R9). -/
def Region.preset (d : Dev) (label : List Byte) (admin : Option Port) : Region :=
  { Region.free with
    state := .opened, device := some d, baseSector := 0, sectorCount := 4096, label := label, readRights := .all,
    writeRights := .ofAdmin admin }

/-- The 32 region records of the preset form (R9). -/
def presetRegions (admin : Option Port) : Vector Region Config.regionCount :=
  ((Vector.replicate Config.regionCount Region.free).set 0
      (Region.preset .d0 [0x44#8, 0x45#8, 0x56#8, 0x30#8] admin)).set 1
      (Region.preset .d1 [0x44#8, 0x45#8, 0x56#8, 0x31#8] admin)

/-! ### The Device Profile Store (R117) -/

/-- A lane count (R117). -/
inductive LaneCount where
  | one | two | four
  deriving DecidableEq, Repr

/-- The lane counts of a transaction's phases (R117). -/
structure Lanes where
  cmd  : LaneCount
  addr : LaneCount
  data : LaneCount
  deriving DecidableEq, Repr

/-- The suspend set of a profile (R103, R117). -/
structure SuspendSet where
  suspendOp : Byte
  resumeOp  : Byte
  bit       : Fin 8
  deriving DecidableEq, Repr

/-- A profile record (R117). -/
structure Profile where
  capacityExp   : Nat
  addressBytes  : Nat
  readOp        : Byte
  readDummy     : Nat
  readLanes     : Lanes
  programOp     : Byte
  programLanes  : Lanes
  eraseOp       : Byte
  writeEnableOp : Byte
  statusOp      : Byte
  busyBit       : Fin 8
  busyIsOne     : Bool
  latchBit      : Option (Fin 8)
  failBit       : Option (Fin 8)
  clearOp       : Option Byte
  suspendSet    : Option SuspendSet
  idOp          : Byte
  expectedId    : Option DeviceId
  resetOps      : List Byte
  recoveryDelay : Nat
  deriving DecidableEq, Repr

/-- One lane in every phase. -/
def Lanes.single : Lanes := ⟨.one, .one, .one⟩

/-- The default profile (R117). -/
def Profile.default : Profile :=
  { capacityExp := 24, addressBytes := 3, readOp := 0x0B#8, readDummy := 8, readLanes := .single,
    programOp := 0x02#8, programLanes := .single, eraseOp := 0x20#8, writeEnableOp := 0x06#8, statusOp := 0x05#8,
    busyBit := 0, busyIsOne := true, latchBit := some 1, failBit := none, clearOp := none, suspendSet := none,
    idOp := 0x9F#8, expectedId := none, resetOps := [0x66#8, 0x99#8], recoveryDelay := 100 }

/-! ### The flash bus (R95 to R101) -/

/-- What a transaction is made for: one use for each end command of the table. The kind of R97 follows from it. -/
inductive BusUse where
  | readData | writeEnable | latchStatus | pageProgram | sectorErase | pollStatus | clearStatus | verifyRead
  | suspend | suspendingStatus | resume | resumingStatus | reset | recoveryStatus | idRead
  deriving DecidableEq, Repr

/-- A transaction as a sequencer requests it (R97, R101). -/
structure Transaction where
  use       : BusUse
  opcode    : Byte
  addrBytes : Nat
  addr      : Word
  dummy     : Nat
  out       : List Byte
  inCount   : Nat
  lanes     : Lanes
  deriving DecidableEq, Repr

/-- The ID read of a probe (R97, R120). -/
def Transaction.idRead (opcode : Byte) : Transaction :=
  { use := .idRead, opcode := opcode, addrBytes := 0, addr := 0#32, dummy := 0, out := [], inCount := 3,
    lanes := .single }

/-- The transaction in progress on the bus (R95): the device, the transaction, the divider read at the grant (R98), the
internal clock cycles since its chip select fell, and whether its sequencer still wants the result (R89, R91). -/
structure OnBus where
  dev     : Dev
  txn     : Transaction
  divider : Nat
  elapsed : Nat
  live    : Bool
  deriving DecidableEq, Repr

/-- The Flash Bus Controller (R95): the transaction in progress, the device the pointer prefers (R96), and the internal
clock cycles still to pass with both chip selects high (R97). -/
structure Bus where
  cur     : Option OnBus
  pointer : Dev
  gap     : Nat
  deriving DecidableEq, Repr

/-! ### The Device Sequencer (R78, R102) -/

/-- The device state (R78). -/
inductive DevState where
  | probing | idle | transfer | waitReady | suspending | suspended | resuming | recovering | faulted | absent
  deriving DecidableEq, Repr

/-- The part of a recovery in progress (R78). -/
inductive RecoveryPhase where
  | reset | delay | poll | probe
  deriving DecidableEq, Repr

/-- The record of a Device Sequencer (R78, R102). `writeEnables` counts the write enables of the current step (R60) and
`resetsSent` the reset opcodes whose transaction has ended in the current recovery (R128). -/
structure Sequencer where
  state            : DevState
  current          : Option EntryRef
  suspendedStep    : Option EntryRef
  suspendCount     : Nat
  lastServed       : Port
  stepTimer        : Option Nat
  pollTimer        : Option Nat
  dwellTimer       : Option Nat
  suspendTimer     : Option Nat
  recoveryTimer    : Option Nat
  absentReason     : Option AbsentReason
  busRequest       : Option Transaction
  probedId         : Option DeviceId
  waitingRequest   : Option EntryRef
  stepPoll         : Nat
  stepTimeout      : Option Nat
  recoveryPhase    : Option RecoveryPhase
  stepSuspendLimit : Nat
  stepDwell        : Nat
  readQuota        : Option Nat
  readsServed      : Nat
  writeEnables     : Nat
  resetsSent       : Nat
  deriving DecidableEq, Repr

/-- The record after power-on and RESETN (R78, R102). DESIGN CHOICE 0 for the two counts the spec does not name (unsafe,
log 14). -/
def Sequencer.initial : Sequencer :=
  { state := .probing, current := none, suspendedStep := none, suspendCount := 0, lastServed := .c,
    stepTimer := none, pollTimer := none, dwellTimer := none, suspendTimer := none, recoveryTimer := none,
    absentReason := none, busRequest := none, probedId := none, waitingRequest := none, stepPoll := 25,
    stepTimeout := none, recoveryPhase := none, stepSuspendLimit := 0, stepDwell := 500, readQuota := none,
    readsServed := 0, writeEnables := 0, resetsSent := 0 }

/-! ### Settings (R181) -/

/-- The ten settings of R181. -/
structure Settings where
  defaultTerm    : Nat
  maxTerm        : Nat
  pollInterval   : Nat
  programTimeout : Nat
  eraseTimeout   : Nat
  suspendTimeout : Nat
  resumeDwell    : Nat
  suspendLimit   : Nat
  suspendReads   : Nat
  clockDivider   : Nat
  deriving DecidableEq, Repr

/-- The reset values of R181. -/
def Settings.initial : Settings :=
  { defaultTerm := 5000, maxTerm := 60000, pollInterval := 25, programTimeout := 4, eraseTimeout := 600,
    suspendTimeout := 200, resumeDwell := 500, suspendLimit := 4, suspendReads := 8, clockDivider := 4 }

/-! ### The whole part -/

/-- The state of the part, and the queue of the commands that wait. `resetn` is the level of the RESETN pin. -/
structure State where
  resetn   : Bool
  links    : PerPort Link
  exchs    : PerPort Exchange
  notices  : PerPort (List Notice)
  regions  : Vector Region Config.regionCount
  epoch    : Half
  admin    : Option Port
  seqs     : PerDev Sequencer
  profiles : PerDev Profile
  bus      : Bus
  settings : Settings
  pending  : List Instr
  deriving DecidableEq, Repr

/-- The reasons a step can fault: none. The manual lets no event stop the part; its FAULTED is a device state (R91).
Nobody raises a fault (log 16). -/
inductive Fault where
  deriving DecidableEq, Repr

/-- The reasons a step can be refused. -/
inductive Refusal where
  /-- Raised by exec's arm for a command that has no meaning yet. Safe: nothing can be proved of that command. -/
  | notModelled (mnemonic : String)
  deriving DecidableEq, Repr

/-- The state after the action of R189 with a given administrator and select lines, before the two ID reads are
requested: every block at the reset state of the table of R189. -/
def State.blocksReset (admin : Option Port) (links : PerPort Link) (pending : List Instr) : State :=
  { resetn := true, links := links,
    exchs := ⟨.initial, .initial, .initial⟩, notices := ⟨[], [], []⟩,
    regions := presetRegions admin, epoch := 0#16, admin := admin,
    seqs := ⟨.initial, .initial⟩, profiles := ⟨.default, .default⟩,
    bus := { cur := none, pointer := .d0, gap := 0 }, settings := .initial, pending := pending }

/-- The part right after reset (R189). DESIGN CHOICE: the ADMSEL pins select Port A (unsafe, log 3), the select lines are
high (unsafe, log 5) and device 0's ID read reached the bus first (unsafe, log 4), so that it is on the bus and device
1's waits (R121). -/
def State.reset : State :=
  { State.blocksReset (some .a) ⟨.initial, .initial, .initial⟩ [] with
    seqs := ⟨.initial, { Sequencer.initial with busRequest := some (.idRead 0x9F#8) }⟩,
    bus := { cur := some { dev := .d0, txn := .idRead 0x9F#8, divider := 4, elapsed := 0, live := true },
             pointer := .d1, gap := 0 } }

end Sys2Proof.Machine
end

