-- ==== Sys2Proof/Machine/Operands.lean ====
section
/-! DEFINITION. The encodings of request fields (R190), profile records (R117, R119, R190) and settings (R181). -/

namespace Sys2Proof.Machine

/-! ### Sets of ports -/

/-- Membership of a port. -/
def PortSet.has (x : PortSet) : Port → Bool
  | .a => x.a
  | .b => x.b
  | .c => x.c

/-- The set with one port added. -/
def PortSet.insert (x : PortSet) : Port → PortSet
  | .a => { x with a := true }
  | .b => { x with b := true }
  | .c => { x with c := true }

/-- The set with one port removed. -/
def PortSet.erase (x : PortSet) : Port → PortSet
  | .a => { x with a := false }
  | .b => { x with b := false }
  | .c => { x with c := false }

/-- The rights byte of a set: bit 0 Port A, bit 1 Port B, bit 2 Port C (R190). -/
def PortSet.wire (x : PortSet) : Byte :=
  (if x.a then 1#8 else 0#8) ||| (if x.b then 2#8 else 0#8) ||| (if x.c then 4#8 else 0#8)

/-- The set a rights byte encodes, none when any of bits 3..7 is set (R190). -/
def rightsOf (b : Byte) : Option PortSet :=
  if b.toNat < 8 then some ⟨b.getLsbD 0, b.getLsbD 1, b.getLsbD 2⟩ else none

/-- The port code of frames: 01h A, 02h B, 03h C, 00h absent (R191). -/
def portCode : Option Port → Byte
  | none => 0#8
  | some .a => 1#8
  | some .b => 2#8
  | some .c => 3#8

/-- The administrator that the ADMSEL pins select (R186). -/
def adminOf (admsel1 admsel0 : Bool) : Option Port :=
  match admsel1, admsel0 with
  | false, false => some .a
  | false, true => some .b
  | true, false => some .c
  | true, true => none

/-- The value of setting 10: 0 A, 1 B, 2 C, 3 none (R191). -/
def adminCode : Option Port → Nat
  | some .a => 0
  | some .b => 1
  | some .c => 2
  | none => 3

/-! ### Fields of requests (R190) -/

/-- The slot a region number names, none in 32..255 (R2). -/
def regionOf (b : Byte) : Option RegionId :=
  if h : b.toNat < Config.regionCount then some ⟨b.toNat, h⟩ else none

/-- The device a device number names, none in 02h..FFh. -/
def devOf (b : Byte) : Option Dev :=
  match b.toNat with
  | 0 => some .d0
  | 1 => some .d1
  | _ => none

/-- The device code of frames (R191). -/
def devCode : Dev → Byte
  | .d0 => 0#8
  | .d1 => 1#8

/-- The label a label field carries, none when its length is above 8. Padding bytes are ignored. -/
def labelOf (l : LabelField) : Option (List Byte) :=
  if l.length.toNat ≤ 8 then some (l.bytes.toList.take l.length.toNat) else none

/-- The expected epoch a field carries: outer none when out of encoding, inner none when absent. -/
def epochOf (e : EpochField) : Option (Option Half) :=
  match e.presence.toNat with
  | 0 => some none
  | 1 => some (some e.value)
  | _ => none

/-- The VERIFY flag of a PROGRAM flags byte, none when any of bits 1..7 is set. -/
def verifyOf (flags : Byte) : Option Bool :=
  match flags.toNat with
  | 0 => some false
  | 1 => some true
  | _ => none

/-- The mask a mask byte carries, none when any of bits 3..7 is set (R164, R190). -/
def maskOf (b : Byte) : Option Mask :=
  if b.toNat < 8 then some ⟨b.getLsbD 0, b.getLsbD 1, b.getLsbD 2⟩ else none

/-! ### Profile records (R117, R119, R190) -/

/-- The number of lanes. -/
def LaneCount.toNat : LaneCount → Nat
  | .one => 1
  | .two => 2
  | .four => 4

/-- The lane count a byte encodes (R190). -/
def laneOf (b : Byte) : Option LaneCount :=
  match b.toNat with
  | 1 => some .one
  | 2 => some .two
  | 4 => some .four
  | _ => none

/-- R119 item 3: command lanes do not exceed address lanes, nor address lanes data lanes. -/
def Lanes.ordered (l : Lanes) : Bool :=
  decide (l.cmd.toNat ≤ l.addr.toNat) && decide (l.addr.toNat ≤ l.data.toNat)

/-- The lane counts three bytes encode. -/
def lanesOf (c a d : Byte) : Option Lanes := do
  return ⟨← laneOf c, ← laneOf a, ← laneOf d⟩

/-- A bit position 00h..07h. -/
def bitOf (b : Byte) : Option (Fin 8) := if h : b.toNat < 8 then some ⟨b.toNat, h⟩ else none

/-- An optional bit position: FFh absent, 00h..07h present, others break R119 item 1. -/
def optionalBitOf (b : Byte) : Option (Option (Fin 8)) :=
  if b = 0xFF#8 then some none else (bitOf b).map some

/-- A presence byte (R190). -/
def presenceOf (b : Byte) : Option Bool :=
  match b.toNat with
  | 0 => some false
  | 1 => some true
  | _ => none

/-- A value governed by a presence byte (R190). -/
def governed {α : Type} (presence : Byte) (value : Option α) : Option (Option α) :=
  match presenceOf presence with
  | some false => some none
  | some true => value.map some
  | none => none

/-- The ID values that the probe takes as no response (R119 item 7, R120). -/
def DeviceId.isNoResponse (i : DeviceId) : Bool := i == ⟨0#8, 0#8, 0#8⟩ || i == ⟨0xFF#8, 0xFF#8, 0xFF#8⟩

/-- The bit positions present in a profile (R119 item 6). -/
def Profile.bits (p : Profile) : List (Fin 8) :=
  p.busyBit :: (p.latchBit.toList ++ p.failBit.toList ++ (p.suspendSet.map SuspendSet.bit).toList)

/-- The conditions of R119 on the fields that their types leave open. Item 4 and the ranges of opcodes, lanes and bits
hold by the types. -/
def Profile.valid (p : Profile) : Bool :=
  decide (16 ≤ p.capacityExp) && decide (p.capacityExp ≤ 28) &&
  (p.addressBytes == 3 || p.addressBytes == 4) &&
  (decide (p.capacityExp ≤ 24) || p.addressBytes == 4) &&
  decide (p.readDummy ≤ 15) &&
  p.readLanes.ordered && p.programLanes.ordered &&
  (p.clearOp.isNone || p.failBit.isSome) &&
  decide p.bits.Nodup &&
  (match p.expectedId with | none => true | some i => !i.isNoResponse) &&
  decide (p.resetOps.length ≤ 2) &&
  decide (10 ≤ p.recoveryDelay) && decide (p.recoveryDelay ≤ 10000)

/-- The profile a record carries, none when it breaks R119. -/
def parseProfile (r : ProfileRecord) : Option Profile := do
  let readLanes ← lanesOf r.readCmdLanes r.readAddrLanes r.readDataLanes
  let programLanes ← lanesOf r.progCmdLanes r.progAddrLanes r.progDataLanes
  let busyBit ← bitOf r.busyBit
  let busyIsOne ← presenceOf r.busyPolarity
  let latchBit ← optionalBitOf r.latchBit
  let failBit ← optionalBitOf r.failBit
  let clearOp ← governed r.clearPresence (some r.clearOp)
  let suspendSet ← governed r.suspendPresence
    ((bitOf r.suspendedBit).map fun bit => (⟨r.suspendOp, r.resumeOp, bit⟩ : SuspendSet))
  let expectedId ← governed r.idPresence (some (⟨r.id0, r.id1, r.id2⟩ : DeviceId))
  let p : Profile :=
    { capacityExp := r.capacity.toNat, addressBytes := r.addressBytes.toNat, readOp := r.readOp,
      readDummy := r.readDummy.toNat, readLanes := readLanes, programOp := r.programOp, programLanes := programLanes,
      eraseOp := r.eraseOp, writeEnableOp := r.writeEnableOp, statusOp := r.statusOp, busyBit := busyBit,
      busyIsOne := busyIsOne, latchBit := latchBit, failBit := failBit, clearOp := clearOp, suspendSet := suspendSet,
      idOp := r.idOp, expectedId := expectedId, resetOps := [r.reset0, r.reset1].take r.resetLength.toNat,
      recoveryDelay := r.recoveryDelay.toNat }
  if decide (r.resetLength.toNat ≤ 2) && p.valid then some p else none

/-- The record DEVICE_INFO returns for a profile: 00h in every byte that an absent field governs, FFh for an absent latch
or fail bit (R190). -/
def Profile.record (p : Profile) : ProfileRecord :=
  let bit := fun (b : Option (Fin 8)) => match b with | none => 0xFF#8 | some i => BitVec.ofNat 8 i.val
  let present := fun (b : Bool) => if b then 1#8 else 0#8
  { capacity := BitVec.ofNat 8 p.capacityExp, addressBytes := BitVec.ofNat 8 p.addressBytes, readOp := p.readOp,
    readDummy := BitVec.ofNat 8 p.readDummy, readCmdLanes := BitVec.ofNat 8 p.readLanes.cmd.toNat,
    readAddrLanes := BitVec.ofNat 8 p.readLanes.addr.toNat, readDataLanes := BitVec.ofNat 8 p.readLanes.data.toNat,
    programOp := p.programOp, progCmdLanes := BitVec.ofNat 8 p.programLanes.cmd.toNat,
    progAddrLanes := BitVec.ofNat 8 p.programLanes.addr.toNat,
    progDataLanes := BitVec.ofNat 8 p.programLanes.data.toNat, eraseOp := p.eraseOp,
    writeEnableOp := p.writeEnableOp, statusOp := p.statusOp, busyBit := BitVec.ofNat 8 p.busyBit.val,
    busyPolarity := present p.busyIsOne, latchBit := bit p.latchBit, failBit := bit p.failBit,
    clearPresence := present p.clearOp.isSome, clearOp := p.clearOp.getD 0#8,
    suspendPresence := present p.suspendSet.isSome,
    suspendOp := (p.suspendSet.map SuspendSet.suspendOp).getD 0#8,
    resumeOp := (p.suspendSet.map SuspendSet.resumeOp).getD 0#8,
    suspendedBit := ((p.suspendSet.map SuspendSet.bit).map fun i => BitVec.ofNat 8 i.val).getD 0#8,
    idOp := p.idOp, idPresence := present p.expectedId.isSome,
    id0 := (p.expectedId.map DeviceId.b0).getD 0#8, id1 := (p.expectedId.map DeviceId.b1).getD 0#8,
    id2 := (p.expectedId.map DeviceId.b2).getD 0#8, resetLength := BitVec.ofNat 8 p.resetOps.length,
    reset0 := p.resetOps.getD 0 0#8, reset1 := p.resetOps.getD 1 0#8,
    recoveryDelay := BitVec.ofNat 16 p.recoveryDelay }

/-- Sectors of a device under a profile: 2 to the power (capacity exponent - 12) (R3). -/
def Profile.sectors (p : Profile) : Nat := 2 ^ (p.capacityExp - 12)

/-- The busy bit of a status byte, read with the busy polarity (R61, R86). -/
def Profile.busy (p : Profile) (status : Byte) : Bool := status.getLsbD p.busyBit.val == p.busyIsOne

/-- An optional bit of a status byte: clear when the profile has no such bit. -/
def statusBit (bit : Option (Fin 8)) (status : Byte) : Bool :=
  match bit with
  | none => false
  | some i => status.getLsbD i.val

/-- The latch bit reads 1 (R60). -/
def Profile.latched (p : Profile) (status : Byte) : Bool := statusBit p.latchBit status

/-- The fail bit reads 1 (R62). -/
def Profile.failed (p : Profile) (status : Byte) : Bool := statusBit p.failBit status

/-- The suspended bit reads 1 (R103). -/
def Profile.isSuspended (p : Profile) (status : Byte) : Bool := statusBit (p.suspendSet.map SuspendSet.bit) status

/-! ### Settings (R181, R184) -/

/-- The value of a setting by its identifier, 0..9 (R181). -/
def Settings.value (x : Settings) : Nat → Option Nat
  | 0 => some x.defaultTerm
  | 1 => some x.maxTerm
  | 2 => some x.pollInterval
  | 3 => some x.programTimeout
  | 4 => some x.eraseTimeout
  | 5 => some x.suspendTimeout
  | 6 => some x.resumeDwell
  | 7 => some x.suspendLimit
  | 8 => some x.suspendReads
  | 9 => some x.clockDivider
  | _ => none

/-- MIN, MAX and step of a setting (R181). -/
def settingRange : Nat → Option (Nat × Nat × Nat)
  | 0 => some (100, 60000, 1)
  | 1 => some (100, 65535, 1)
  | 2 => some (5, 1000, 1)
  | 3 => some (1, 255, 1)
  | 4 => some (10, 5000, 1)
  | 5 => some (10, 1000, 1)
  | 6 => some (100, 25500, 100)
  | 7 => some (0, 15, 1)
  | 8 => some (1, 16, 1)
  | 9 => some (2, 32, 1)
  | _ => none

/-- Whether a value may be given to a setting (R184, checks 3 and 4). -/
def settingAccepts (id value : Nat) : Bool :=
  match settingRange id with
  | none => false
  | some (lo, hi, step) => decide (lo ≤ value) && decide (value ≤ hi) && decide (value % step = 0)

/-- The settings with one of them given a value. -/
def Settings.assign (x : Settings) (id value : Nat) : Settings :=
  match id with
  | 0 => { x with defaultTerm := value }
  | 1 => { x with maxTerm := value }
  | 2 => { x with pollInterval := value }
  | 3 => { x with programTimeout := value }
  | 4 => { x with eraseTimeout := value }
  | 5 => { x with suspendTimeout := value }
  | 6 => { x with resumeDwell := value }
  | 7 => { x with suspendLimit := value }
  | 8 => { x with suspendReads := value }
  | 9 => { x with clockDivider := value }
  | _ => x

end Sys2Proof.Machine
end

