-- ==== Sys2Proof/Machine/Ops.lean ====
section
/-! DEFINITION. The named operations over the records of State: reading and writing one record, the entries and lists of
an Exchange (R134 to R149), the postings of a Notice Unit (R177), and the order of the answers of one action (R144). -/

namespace Sys2Proof.Machine

/-! ### One record of each kind -/

def PerPort.get {α : Type} (x : PerPort α) : Port → α
  | .a => x.a
  | .b => x.b
  | .c => x.c

def PerPort.set {α : Type} (x : PerPort α) (p : Port) (v : α) : PerPort α :=
  match p with
  | .a => { x with a := v }
  | .b => { x with b := v }
  | .c => { x with c := v }

def PerDev.get {α : Type} (x : PerDev α) : Dev → α
  | .d0 => x.d0
  | .d1 => x.d1

def PerDev.set {α : Type} (x : PerDev α) (d : Dev) (v : α) : PerDev α :=
  match d with
  | .d0 => { x with d0 := v }
  | .d1 => { x with d1 := v }

/-- The ports in the cyclic order of R82. -/
def allPorts : List Port := [.a, .b, .c]

/-- The region numbers, rising. -/
def allRegions : List RegionId := List.finRange Config.regionCount

/-- The slots, rising. -/
def allSlots : List Slot := List.finRange Config.slotCount

/-- The other device. -/
def otherDev : Dev → Dev
  | .d0 => .d1
  | .d1 => .d0

def State.link (s : State) (p : Port) : Link := s.links.get p
def State.exch (s : State) (p : Port) : Exchange := s.exchs.get p
def State.noticeList (s : State) (p : Port) : List Notice := s.notices.get p
def State.region (s : State) (n : RegionId) : Region := s.regions[n]
def State.seq (s : State) (d : Dev) : Sequencer := s.seqs.get d
def State.profile (s : State) (d : Dev) : Profile := s.profiles.get d
def Exchange.entry (x : Exchange) (k : Slot) : Entry := x.entries[k]
def State.entry (s : State) (p : Port) (k : Slot) : Entry := (s.exch p).entry k

def State.setLink (s : State) (p : Port) (v : Link) : State := { s with links := s.links.set p v }
def State.setExch (s : State) (p : Port) (v : Exchange) : State := { s with exchs := s.exchs.set p v }
def State.setNotices (s : State) (p : Port) (v : List Notice) : State := { s with notices := s.notices.set p v }
def State.setRegion (s : State) (n : RegionId) (v : Region) : State := { s with regions := s.regions.set n v }
def State.setSeq (s : State) (d : Dev) (v : Sequencer) : State := { s with seqs := s.seqs.set d v }
def State.setProfile (s : State) (d : Dev) (v : Profile) : State := { s with profiles := s.profiles.set d v }
def State.setBus (s : State) (v : Bus) : State := { s with bus := v }

/-- How the part holds a line it can drive (R99, R152). -/
inductive Lane where
  | drive (level : Bool)
  | released
  deriving DecidableEq, Repr

/-! ### Entries -/

/-- A READ. -/
def Entry.isRead (e : Entry) : Bool := match e.request with | some (.read ..) => true | _ => false

/-- A PROGRAM. -/
def Entry.isProgram (e : Entry) : Bool := match e.request with | some (.program ..) => true | _ => false

/-- An ERASE. -/
def Entry.isErase (e : Entry) : Bool := match e.request with | some (.erase ..) => true | _ => false

/-- A PROGRAM or ERASE: a write operation (R42). -/
def Entry.isWrite (e : Entry) : Bool := e.isProgram || e.isErase

/-- QUEUED, ACTIVE or DRAINING: a place in the line of a device (R80). -/
def EntryState.inLine : EntryState → Bool
  | .queued | .active | .draining => true
  | .vacant | .waiting | .answered => false

/-- ACTIVE or DRAINING: an operation in progress (R7). -/
def EntryState.running : EntryState → Bool
  | .active | .draining => true
  | .vacant | .queued | .waiting | .answered => false

/-- The tag is reserved (R136, R140). -/
def EntryState.holdsTag : EntryState → Bool
  | .queued | .waiting | .active | .answered => true
  | .vacant | .draining => false

/-- The entry can still be answered (R137). -/
def EntryState.open : EntryState → Bool
  | .queued | .waiting | .active => true
  | .vacant | .answered | .draining => false

/-! ### The Exchange -/

/-- Entries of the Exchange with one of them replaced. -/
def Exchange.put (x : Exchange) (k : Slot) (e : Entry) : Exchange := { x with entries := x.entries.set k e }

/-- The lowest-numbered VACANT slot (R139). -/
def Exchange.vacantSlot (x : Exchange) : Option Slot := allSlots.find? fun k => (x.entry k).state == .vacant

/-- The number of VACANT entries (R145). -/
def Exchange.vacantCount (x : Exchange) : Nat := allSlots.countP fun k => (x.entry k).state == .vacant

/-- The tag is held by a QUEUED, WAITING, ACTIVE or ANSWERED entry (R138, test 2). -/
def Exchange.tagHeld (x : Exchange) (tag : Byte) : Bool :=
  allSlots.any fun k => (x.entry k).state.holdsTag && (x.entry k).tag == some tag

/-- Takes slot k for a frame (R139). Inside the admission action the entry stands as WAITING, until its kind's own checks
answer it or queue it, or leave it WAITING (log 21). -/
def Exchange.take (x : Exchange) (k : Slot) (tag kind : Byte) (device : Option Dev) (region : Option RegionId)
    (request : Option Request) (payload : List Byte) : Exchange :=
  { x with
    entries := x.entries.set k
      { Entry.vacant with state := .waiting, tag := some tag, kind := some kind, number := some x.counter,
                          device := device, region := region, request := request, payload := payload }
    order := x.order ++ [k]
    counter := x.counter + 1#16 }

/-- Answers an entry (R144): its result and values are written, it becomes ANSWERED and joins the Answer List at the tail.
Every answer to an ERASE but MALFORMED carries its progress (R66). An entry that is not QUEUED, WAITING or ACTIVE is
untouched (R137). -/
def Exchange.answer (x : Exchange) (k : Slot) (result : Result) (values : Values) (payload : Option (List Byte)) :
    Exchange :=
  let e := x.entry k
  if e.state.open then
    { x with
      entries := x.entries.set k
        { e with state := .answered, result := some result,
                 values := if e.isErase && result != .malformed then .progress e.progress else values,
                 payload := payload.getD e.payload }
      answers := x.answers ++ [k] }
  else x

/-- Makes an entry VACANT: its fields take the VACANT column, and it leaves the lists (R145, R149). -/
def Exchange.vacate (x : Exchange) (k : Slot) : Exchange :=
  { x with entries := x.entries.set k Entry.vacant, answers := x.answers.erase k, order := x.order.erase k }

/-- The port reset at the Exchange (R150): ACTIVE entries become DRAINING, an erase range with stop request PORT_RESET if it
has none (R149), DRAINING ones stay, all others become VACANT. -/
def Entry.portReset (e : Entry) : Entry :=
  match e.state with
  | .active =>
      { e with state := .draining, stop := if e.isErase && e.stop == .none then .portReset else e.stop }
  | .draining => e
  | .vacant | .queued | .waiting | .answered => Entry.vacant

def Exchange.portReset (x : Exchange) : Exchange :=
  { entries := x.entries.map Entry.portReset
    answers := []
    order := x.order.filter fun k => (x.entry k).state.running
    counter := 0#16 }

/-! ### Entries in the state -/

def State.setEntry (s : State) (p : Port) (k : Slot) (e : Entry) : State := s.setExch p ((s.exch p).put k e)

/-- Answers the entry of a port (R144). -/
def State.answer (s : State) (p : Port) (k : Slot) (result : Result) (values : Values := .none)
    (payload : Option (List Byte) := none) : State :=
  s.setExch p ((s.exch p).answer k result values payload)

/-- Makes an entry VACANT (R145, R149). -/
def State.vacate (s : State) (p : Port) (k : Slot) : State := s.setExch p ((s.exch p).vacate k)

/-- Writes a stop request into an ACTIVE entry, unless one is already written (R71). -/
def State.requestStop (s : State) (p : Port) (k : Slot) (stop : StopRequest) : State :=
  let e := s.entry p k
  if e.state == .active && e.stop == .none then s.setEntry p k { e with stop := stop } else s

/-- The slots of a port whose entries meet a test, in admission order. -/
def State.slotsWhere (s : State) (p : Port) (test : Entry → Bool) : List Slot :=
  (s.exch p).order.filter fun k => test (s.entry p k)

/-- An operation on the region is in progress (R7). -/
def State.inProgress (s : State) (n : RegionId) : Bool :=
  allPorts.any fun p => allSlots.any fun k =>
    (s.entry p k).state.running && (s.entry p k).region == some n

/-- The count of operations in progress on a region (R7). -/
def State.operationCount (s : State) (n : RegionId) : Nat :=
  (allPorts.map fun p => allSlots.countP fun k =>
    (s.entry p k).state.running && (s.entry p k).region == some n).sum

/-- A write operation of the port on the region is in progress (R42 item 5). -/
def State.writeInProgress (s : State) (p : Port) (n : RegionId) : Bool :=
  allSlots.any fun k =>
    (s.entry p k).state.running && (s.entry p k).isWrite && (s.entry p k).region == some n

/-! ### The order of the answers of one action (R144) -/

/-- The answers that a port has after and not before, put in admission order (R144, R49). -/
def Exchange.regroup (before after : Exchange) : Exchange :=
  { after with
    answers := before.answers ++
      after.order.filter fun k => after.answers.contains k && !before.answers.contains k }

/-- The answers that stand in `t` and not yet in `s` join each port's list in admission order (R144, R49). -/
def State.regroup (s t : State) : State :=
  { t with exchs := ⟨s.exchs.a.regroup t.exchs.a, s.exchs.b.regroup t.exchs.b, s.exchs.c.regroup t.exchs.c⟩ }

/-- A part of an action whose answers join each port's list in admission order (R144). -/
def State.inAdmissionOrder (s : State) (part : State → State) : State := s.regroup (part s)

/-! ### Notices (R177) -/

/-- RETIRED above LEASE_LOST above CHANGED (R177). -/
def NoticeKind.severity : NoticeKind → Nat
  | .changed => 0
  | .leaseLost => 1
  | .retired => 2

/-- The more severe of two kinds (R177). -/
def NoticeKind.worse (a b : NoticeKind) : NoticeKind := if a.severity < b.severity then b else a

/-- A posting coalesces with the record of its region, which keeps its place, or joins at the tail (R177). -/
def postTo (posting : Notice) : List Notice → List Notice
  | [] => [posting]
  | r :: rest =>
      if r.region = posting.region then
        { r with kind := r.kind.worse posting.kind, generation := posting.generation } :: rest
      else r :: postTo posting rest

/-- A posting to one port (R177). -/
def State.post (s : State) (p : Port) (posting : Notice) : State :=
  s.setNotices p (postTo posting (s.noticeList p))

/-- A posting to every port of a set (R175). -/
def State.postSet (s : State) (ports : PortSet) (posting : Notice) : State :=
  allPorts.foldl (fun s p => if ports.has p then s.post p posting else s) s

/-- A command whose occasion is there has its effect; without its occasion it changes nothing (DESIGN CHOICE, safe,
log 1). -/
def whenDue (due : Bool) (effect : State → State) (s : State) : Host.Outcome State Fault Refusal :=
  .next (if due then effect s else s)

end Sys2Proof.Machine
end

