-- ==== Sys2Proof/Machine/Frames.lean ====
section
/-! DEFINITION. What the part shifts out: codes, region summaries, answer values and the frames of a TAKE (R191). -/

namespace Sys2Proof.Machine

/-- A number as two bytes. -/
def halfOf (n : Nat) : List Byte := halfBytes (BitVec.ofNat 16 n)

/-- Result codes (R191). -/
def Result.code : Result → Byte
  | .done => 0x00#8
  | .cancelled => 0x01#8
  | .tooLate => 0x02#8
  | .unknownTag => 0x03#8
  | .malformed => 0x04#8
  | .notAdmin => 0x05#8
  | .noRegion => 0x06#8
  | .noRight => 0x07#8
  | .notHolder => 0x08#8
  | .held => 0x09#8
  | .alreadyHolder => 0x0A#8
  | .alreadyWaiting => 0x0B#8
  | .leaseLimit => 0x0C#8
  | .waitExpired => 0x0D#8
  | .leaseLost => 0x0E#8
  | .retired => 0x0F#8
  | .stale => 0x10#8
  | .badRange => 0x11#8
  | .tableFull => 0x12#8
  | .overlap => 0x13#8
  | .labelTaken => 0x14#8
  | .busy => 0x15#8
  | .badSetting => 0x16#8
  | .deviceAbsent => 0x17#8
  | .deviceFault => 0x18#8
  | .deviceTimeout => 0x19#8
  | .programFail => 0x1A#8
  | .eraseFail => 0x1B#8
  | .verifyMismatch => 0x1C#8
  | .writeEnableFail => 0x1D#8

/-- Region state codes (R191). -/
def RegionState.code : RegionState → Byte
  | .free => 0x00#8
  | .opened => 0x01#8
  | .leased => 0x02#8
  | .releasing => 0x03#8
  | .closing => 0x04#8
  | .retiring => 0x05#8

/-- Device state codes (R191). -/
def DevState.code : DevState → Byte
  | .probing => 0x00#8
  | .idle => 0x01#8
  | .transfer => 0x02#8
  | .waitReady => 0x03#8
  | .suspending => 0x04#8
  | .suspended => 0x05#8
  | .resuming => 0x06#8
  | .recovering => 0x07#8
  | .faulted => 0x08#8
  | .absent => 0x09#8

/-- Notice kind codes (R191). -/
def NoticeKind.code : NoticeKind → Byte
  | .changed => 0x01#8
  | .leaseLost => 0x02#8
  | .retired => 0x03#8

/-- Absent reason codes, 00h absent (R191). -/
def reasonCode : Option AbsentReason → Byte
  | none => 0x00#8
  | some .noResponse => 0x01#8
  | some .idMismatch => 0x02#8

/-- The bytes of a device ID in probe order. -/
def DeviceId.wire (i : DeviceId) : List Byte := [i.b0, i.b1, i.b2]

/-- A list of bytes padded with 00h to a length. -/
def padTo (n : Nat) (l : List Byte) : List Byte := (l ++ List.replicate n 0#8).take n

/-- The 33 bytes of a region summary (R13, R191). -/
def regionSummary (n : RegionId) (r : Region) : List Byte :=
  [BitVec.ofNat 8 n.val, r.state.code, (r.device.map devCode).getD 0#8] ++ halfOf r.baseSector ++
  wordBytes (BitVec.ofNat 32 r.sectorCount) ++ [BitVec.ofNat 8 r.label.length] ++ padTo 8 r.label ++
  [r.readRights.wire, r.writeRights.wire] ++ halfOf r.defaultTerm ++ [portCode r.holder] ++
  (if r.holder.isSome then halfOf r.remaining ++ halfOf (r.granted.getD 0) else halfOf 0 ++ halfOf 0) ++
  [if r.dirty then 1#8 else 0#8] ++ halfBytes r.generation ++
  padTo 2 (r.queue.map fun c => portCode (some c.port)) ++ [r.watch.wire]

/-- The 40 bytes of a DEVICE_INFO answer (R133, R191). -/
def deviceInfoBytes (q : Sequencer) (p : Profile) : List Byte :=
  [q.state.code, reasonCode q.absentReason, if q.probedId.isSome then 1#8 else 0#8] ++
  ((q.probedId.map DeviceId.wire).getD [0#8, 0#8, 0#8]) ++ p.record.wire

/-- The value bytes of an answer (R191). -/
def Values.wire (v : Values) (payload : List Byte) : List Byte :=
  match v with
  | .none => []
  | .read g unsettled => halfBytes g ++ [if unsettled then 1#8 else 0#8] ++ payload
  | .mismatch offset count => wordBytes offset ++ halfOf count
  | .progress sectors => wordBytes (BitVec.ofNat 32 sectors)
  | .claim t g => halfOf t ++ halfBytes g
  | .term t => halfOf t
  | .generation g => halfBytes g
  | .watch g e => halfBytes g ++ halfBytes e
  | .lookup e => payload ++ halfBytes e
  | .define n e => [BitVec.ofNat 8 n.val] ++ halfBytes e
  | .epoch e => halfBytes e
  | .probed id => id.wire
  | .absent id reason => id.wire ++ [reasonCode (some reason)]
  | .record => payload
  | .configure setting now before => [setting] ++ halfOf now ++ halfOf before
  | .mask m => [m]

/-- A frame of a TAKE: header of seven bytes, values, check bytes (R191). -/
def outFrame (tag kind result : Byte) (number : Half) (values : List Byte) : List Byte :=
  let body := [tag, kind, result] ++ halfBytes number ++ halfOf values.length ++ values
  body ++ halfBytes (crc16 body)

/-- The answer frame of an entry (R191). -/
def answerFrame (e : Entry) : List Byte :=
  outFrame (e.tag.getD 0#8) (e.kind.getD 0#8) ((e.result.map Result.code).getD 0#8) (e.number.getD 0#16)
    (e.values.wire e.payload)

/-- The notice frame of a record (R191). -/
def noticeFrame (n : Notice) : List Byte :=
  outFrame 0#8 0x80#8 0#8 0#16 ([BitVec.ofNat 8 n.region.val, n.kind.code] ++ halfBytes n.generation)

/-- The empty frame (R191). -/
def emptyFrame : List Byte := outFrame 0#8 0#8 0#8 0#16 []

end Sys2Proof.Machine
end

