-- ==== Sys2Proof/Machine/Flags.lean ====
section
/-! DEFINITION. Flags and levels that follow from the records: the fault indication (R93), the attention line (R163), the
three status bytes (R155, R161, R192), and the data output of a host link (R152, R189, R192). -/

namespace Sys2Proof.Machine

/-- The "device fault present" indication (R93). -/
def State.deviceFault (s : State) : Bool := s.seqs.d0.state == .faulted || s.seqs.d1.state == .faulted

/-- Some link flag is set (R155). -/
def LinkFlags.any (f : LinkFlags) : Bool := f.overrun || f.frameError || f.tagClash

/-- All flags clear (R161). -/
def LinkFlags.clear : LinkFlags := ⟨false, false, false⟩

/-- All classes unmasked (R164). -/
def Mask.clear : Mask := ⟨false, false, false⟩

/-- The level of a port's attention line (R163), low while RESETN is low (R153, R189). -/
def State.attention (s : State) (p : Port) : Bool :=
  s.resetn &&
  ((!(s.exch p).answers.isEmpty && !(s.link p).mask.answers) ||
   (!(s.noticeList p).isEmpty && !(s.link p).mask.notices) ||
   ((s.link p).flags.any && !(s.link p).mask.flags))

/-- One bit of a status byte. -/
def bitAt (i : Nat) (b : Bool) : Byte := if b then 1#8 <<< i else 0#8

/-- The link status byte (R155, R192). -/
def State.linkStatus (s : State) (p : Port) : Byte :=
  bitAt 7 s.deviceFault ||| bitAt 6 (s.link p).flags.any ||| bitAt 5 (!(s.noticeList p).isEmpty) |||
  bitAt 4 (!(s.exch p).answers.isEmpty) ||| BitVec.ofNat 8 (s.exch p).vacantCount

/-- The second status byte (R161, R192). -/
def State.secondStatus (s : State) (p : Port) : Byte :=
  (BitVec.ofNat 8 (s.exch p).answers.length <<< 4) ||| bitAt 3 (s.admin == some p) |||
  bitAt 2 (s.link p).flags.tagClash ||| bitAt 1 (s.link p).flags.frameError ||| bitAt 0 (s.link p).flags.overrun

/-- The notice count byte (R161, R192). -/
def State.noticeCountByte (s : State) (p : Port) : Byte := BitVec.ofNat 8 (s.noticeList p).length

/-! ### The data output (R152, R153, R189, R192) -/

/-- The bit that the data output gives the host at a coming rising edge of the clock, 0 for the next one: the bytes to send,
most significant bit first, less the bits sent of the byte in progress; and 0 in every other position (R192). -/
def Link.outBit (l : Link) (edge : Nat) : Bool := ((l.shiftOut.flatMap bitsOf).drop l.bits.length).getD edge false

/-- How the part holds a port's data output as the next rising edge of the clock finds it: driven while the select line is
low (R152), released while it is high (R152) and while RESETN is low (R153, R189). A line that is low in IDLE, as after a
release of RESETN, has 0 driven (DESIGN CHOICE, unsafe, log 24). -/
def State.dataOut (s : State) (p : Port) : Lane :=
  if s.resetn && (s.link p).selectLow then .drive ((s.link p).outBit 0) else .released

end Sys2Proof.Machine
end

