-- ==== Sys2Proof/Machine/Admission.lean ====
section
/-! DEFINITION. The bits and bytes a host shifts in (R152), the receiver of a PUT frame, byte by byte (R156 to R158), and the
admission of a checked frame (R138 to R141). -/

namespace Sys2Proof.Machine

/-! ### Bits and bytes (R152) -/

/-- A rising edge of a port's clock, on which the data input is sampled: ignored while the select line is high; the eighth
since the last completed byte completes a byte, most significant bit first (R152). -/
def Link.sample (l : Link) (bit : Bool) : Link × Option Byte :=
  if !l.selectLow then (l, none)
  else if l.bits.length < 7 then ({ l with bits := l.bits ++ [bit] }, none)
  else ({ l with bits := [] }, some (byteOf (l.bits ++ [bit])))

/-- Rising edges one after another, with the bytes they complete (R152). -/
def Link.shiftIn (l : Link) : List Bool → Link × List Byte
  | [] => (l, [])
  | bit :: rest =>
    let x := (l.sample bit).1.shiftIn rest
    (x.1, (l.sample bit).2.toList ++ x.2)

/-- A byte can be shifted in whole on a port: RESETN is high, the select line is low, the link is in the phase, and no bit of
a byte is in (R152, R153; log 24). -/
def State.shifts (s : State) (p : Port) (phase : Phase) : Bool :=
  s.resetn && (s.link p).selectLow && (s.link p).phase == phase && (s.link p).bits.isEmpty

/-! ### The receiver -/

/-- What one more byte of a PUT makes of the link record. -/
inductive Received where
  | more (l : Link)
  | discarded (l : Link)
  | taken (l : Link)
  deriving DecidableEq, Repr

/-- The link waits for the first byte of a request frame: the select line low, PUT_HEADER with nothing received, no bit of a
byte in (R152, R156, R157). -/
def Link.awaitsFrame (l : Link) : Bool :=
  l.selectLow && l.bits.isEmpty && l.phase == .putHeader && l.count == 0 && l.rxBuffer.isEmpty && l.crc == crcStart

/-- The link record at the start of a PUT: PUT_HEADER, the receive buffer empty and the check register at its start
(R156, R157). -/
def Link.startPut (l : Link) : Link :=
  { l with phase := .putHeader, kind := some .put, count := 0, rxBuffer := [], crc := crcStart, declared := 0#16,
           shiftOut := [] }

/-- A frame is discarded: the buffer is emptied, FRAME_ERROR is set (R158). -/
def Link.dropFrame (l : Link) : Link :=
  { l with rxBuffer := [], count := 0, flags := { l.flags with frameError := true } }

/-- One byte completes in a PUT (R156, R157, R158). -/
def Link.receiveByte (l : Link) (b : Byte) : Received :=
  match l.phase with
  | .putHeader =>
      let l' := { l with rxBuffer := l.rxBuffer ++ [b], crc := crcByte l.crc b, count := l.count + 1 }
      if l.count < 2 then .more l'
      else if l.count = 2 then .more { l' with declared := b.setWidth 16 <<< 8 }
      else
        let declared := l.declared ||| b.setWidth 16
        if Config.maxDeclared < declared.toNat then
          .discarded { ({ l' with declared := declared } : Link).dropFrame with phase := .ignored }
        else if declared.toNat = 0 then .more { l' with declared := declared, phase := .putCheck, count := 0 }
        else .more { l' with declared := declared, phase := .putBody, count := 0 }
  | .putBody =>
      let l' := { l with rxBuffer := l.rxBuffer ++ [b], crc := crcByte l.crc b, count := l.count + 1 }
      if l.count + 1 < l.declared.toNat then .more l' else .more { l' with phase := .putCheck, count := 0 }
  | .putCheck =>
      let l' := { l with rxBuffer := l.rxBuffer ++ [b], count := l.count + 1 }
      if l.count = 0 then .more l'
      else if l'.rxBuffer.drop (4 + l.declared.toNat) = halfBytes l.crc then
        .taken { l' with phase := .ignored, count := 0 }
      else .discarded { l'.dropFrame with phase := .ignored }
  | .idle | .lead | .takeOut | .statusOut | .resetConfirm | .ignored => .more l

/-- Bytes complete one after another in a PUT, until the frame is taken or discarded. -/
def Link.receive (l : Link) : List Byte → Received
  | [] => .more l
  | b :: rest =>
      match l.receiveByte b with
      | .more l' => l'.receive rest
      | .discarded l' => .discarded l'
      | .taken l' => .taken l'

/-! ### Admission -/

/-- The kind's first parameter is a region (R190). -/
def kindNamesRegion (kind : Byte) : Bool :=
  match kind.toNat with
  | 0x11 | 0x12 | 0x13 | 0x14 | 0x15 | 0x16 | 0x21 | 0x22 | 0x23 | 0x32 | 0x33 => true
  | _ => false

/-- The region field of an entry: the slot its request names, where it names one (R135, R139). A frame that fails test 4 of
R138 names one where its kind has a region as its first parameter and that byte is there (DESIGN CHOICE, safe, log 25). -/
def regionField : Request → Option RegionId
  | .claim r _ _ | .renew r _ | .release r | .watch r | .unwatch r | .findNumber r | .read r _ _ _
  | .program r _ _ _ _ | .erase r _ _ _ | .retire r | .setRights r _ _ => regionOf r
  | .findAddress .. | .findLabel .. | .define .. | .setProfile .. | .recover .. | .configure .. | .cancel ..
  | .deviceInfo .. | .readSetting .. | .setAttention .. => none
  | .unread kind params => if kindNamesRegion kind then params.head?.bind regionOf else none

/-- The device field of an entry: the region's device for READ, PROGRAM and ERASE (R51), the device named by SET_PROFILE
and RECOVER, and none otherwise (R135); by the first parameter byte, where it is there, for a frame that fails test 4 of
R138 (DESIGN CHOICE, safe, log 25). -/
def State.deviceField (s : State) (q : Request) : Option Dev :=
  match q with
  | .read r _ _ _ | .program r _ _ _ _ | .erase r _ _ _ => (regionOf r).bind fun n => (s.region n).device
  | .setProfile d _ | .recover d => devOf d
  | .unread kind params =>
    if kind = 0x21#8 ∨ kind = 0x22#8 ∨ kind = 0x23#8 then (params.head?.bind regionOf).bind fun n => (s.region n).device
    else if kind = 0x34#8 ∨ kind = 0x35#8 then params.head?.bind devOf
    else none
  | .claim .. | .renew .. | .release .. | .watch .. | .unwatch .. | .findNumber .. | .findAddress ..
  | .findLabel .. | .define .. | .retire .. | .setRights .. | .configure .. | .cancel .. | .deviceInfo ..
  | .readSetting .. | .setAttention .. => none

/-- The payload of an entry at admission: the data of a PROGRAM, empty for every other kind (R139) and for a PROGRAM frame
whose length R190 does not give, which has no data bytes (DESIGN CHOICE, safe, log 25). -/
def payloadOf : Request → List Byte
  | .program _ _ _ _ data => data
  | .claim .. | .renew .. | .release .. | .watch .. | .unwatch .. | .findNumber .. | .findAddress ..
  | .findLabel .. | .read .. | .erase .. | .define .. | .retire .. | .setRights .. | .setProfile .. | .recover ..
  | .configure .. | .cancel .. | .deviceInfo .. | .readSetting .. | .setAttention .. | .unread .. => []

/-- Sets TAG_CLASH (R162). -/
def State.flagTagClash (s : State) (p : Port) : State :=
  s.setLink p { s.link p with flags := { (s.link p).flags with tagClash := true } }

/-- Sets OVERRUN (R162). -/
def State.flagOverrun (s : State) (p : Port) : State :=
  s.setLink p { s.link p with flags := { (s.link p).flags with overrun := true } }

/-- The tests of R138 on a checked frame. A frame that passes tests 1 to 3 takes the lowest VACANT slot (R139), and the
action of its kind follows. -/
def State.admitFrame (s : State) (p : Port) (tag kind : Byte) (device : Option Dev) (region : Option RegionId)
    (request : Option Request) (payload : List Byte) (act : Slot → State → State) : State :=
  if tag = 0#8 then s.flagTagClash p
  else if (s.exch p).tagHeld tag then s.flagTagClash p
  else match (s.exch p).vacantSlot with
    | none => s.flagOverrun p
    | some k => act k (s.setExch p ((s.exch p).take k tag kind device region request payload))

/-- A frame's bytes arrive on a port, bit by bit (R152); a frame that is taken goes on to `next`, a discarded one leaves the
link as the receiver left it. -/
def State.receiveFrame (s : State) (p : Port) (bytes : List Byte) (next : State → State) : State :=
  let x := (s.link p).shiftIn (bytes.flatMap bitsOf)
  match x.1.receive x.2 with
  | .taken l => next (s.setLink p l)
  | .discarded l => s.setLink p l
  | .more _ => s

/-- A request frame can arrive on a port: RESETN is high and the link waits for a frame. -/
def State.frameDue (s : State) (p : Port) : Bool := s.resetn && (s.link p).awaitsFrame

/-- A whole request frame of a known kind, with matching check bytes, is received and admitted (R156, R138). `act` makes
the checks of its kind and carries it out in the same action (R142). -/
def request (p : Port) (tag : Byte) (q : Request) (act : Slot → State → State) (s : State) :
    Host.Outcome State Fault Refusal :=
  whenDue (s.frameDue p && acceptsFrame q.code q.wire.length)
    (fun s => s.receiveFrame p (frameGood tag q.code q.wire) fun s =>
      s.admitFrame p tag q.code (s.deviceField q) (regionField q) (some q) (payloadOf q) act) s

end Sys2Proof.Machine
end

