-- ==== Sys2Proof/Machine/Lease.lean ====
section
/-! DEFINITION. The lease actions of the Region Table (chapter 2), and what the end of an operation brings about there
(R75). -/

namespace Sys2Proof.Machine

/-- The named region, when it is not FREE (R2). -/
def State.named (s : State) (b : Byte) : Option RegionId :=
  match regionOf b with
  | none => none
  | some n => if (s.region n).state == .free then none else some n

/-- The granted term (R27). -/
def grantedTerm (x : Settings) (defaultTerm requested : Nat) : Nat :=
  min (if requested ≠ 0 then requested else if defaultTerm ≠ 0 then defaultTerm else x.defaultTerm) x.maxTerm

/-- Regions held plus claim records waiting for a port (R28). -/
def State.leaseCount (s : State) (p : Port) : Nat :=
  allRegions.countP (fun n => (s.region n).holder == some p) +
  allRegions.countP (fun n => (s.region n).queue.any fun c => c.port == p)

/-- The lease of a region is granted to a port, and its CLAIM is answered DONE (R30, R38). -/
def State.grant (s : State) (n : RegionId) (p : Port) (k : Slot) (requested : Nat) : State :=
  let r := s.region n
  let t := grantedTerm s.settings r.defaultTerm requested
  (s.setRegion n { r with state := .leased, holder := some p, granted := some t, remaining := t }).answer p k .done
    (.claim t r.generation)

/-- The region with the lease-end values of R25: no holder, no granted term, nothing remaining, no release. -/
def Region.leaseEnded (r : Region) : Region :=
  { r with holder := none, granted := none, remaining := 0, release := none, outstanding := [] }

/-- The Generation after the lease: one higher if the region is dirty (R37). -/
def Region.nextGeneration (r : Region) : Half := if r.dirty then r.generation + 1#16 else r.generation

/-- The record of a region whose lease has ended and been handed over (R25, R37, R38): the head of the claim queue is
granted the region, or the region becomes OPEN. -/
def Region.leaseOver (x : Settings) (r : Region) : Region :=
  let q := { r.leaseEnded with generation := r.nextGeneration, dirty := false }
  match r.queue with
  | [] => { q with state := .opened }
  | c :: rest =>
    let t := grantedTerm x r.defaultTerm c.term
    { q with queue := rest, state := .leased, holder := some c.port, granted := some t, remaining := t }

/-- The CHANGED posting of a dirty lease that ends (R37): to the watching ports but the ex-holder. -/
def State.postChanged (s : State) (n : RegionId) (ex : Port) : State :=
  if (s.region n).dirty then
    s.postSet ((s.region n).watch.erase ex) ⟨n, .changed, (s.region n).nextGeneration⟩
  else s

/-- Answers an entry of the port where there is one. -/
def State.answerWhere (s : State) (p : Port) (slot : Option Slot) (result : Result) (values : Values := .none) : State :=
  match slot with
  | none => s
  | some k => s.answer p k result values

/-- The answer of the claim that is granted at a hand-over (R30, R38). -/
def State.answerGranted (s : State) (head : Option ClaimRecord) (term : Nat) (g : Half) : State :=
  match head with
  | none => s
  | some c => s.answer c.port c.slot .done (.claim term g)

/-- The lease-end bookkeeping of R37 and the hand-over of R38. `ex` is the ex-holder, `rel` the RELEASE that ended the
lease. -/
def State.leaseEnd (s : State) (n : RegionId) (ex : Port) (rel : Option Slot) : State :=
  (((s.postChanged n ex).answerWhere ex rel .done (.generation (s.region n).nextGeneration)).answerGranted
    (s.region n).queue.head? ((s.region n).leaseOver s.settings).remaining (s.region n).nextGeneration).setRegion n
    ((s.region n).leaseOver s.settings)

/-- An entry of the port on the region is a QUEUED PROGRAM or ERASE (R42 item 1). -/
def Entry.queuedWriteOn (n : RegionId) (e : Entry) : Bool := e.state == .queued && e.isWrite && e.region == some n

/-- An entry is an ACTIVE erase range on the region (R42 item 2). -/
def Entry.activeRangeOn (n : RegionId) (e : Entry) : Bool := e.state == .active && e.isErase && e.region == some n

/-- Answers the entries of one port one after another with one result. -/
def State.answerSlots (s : State) (p : Port) (slots : List Slot) (result : Result) : State :=
  slots.foldl (fun s k => s.answer p k result) s

/-- Writes one stop request into several entries of a port (R71). -/
def State.stopSlots (s : State) (p : Port) (slots : List Slot) (stop : StopRequest) : State :=
  slots.foldl (fun s k => s.requestStop p k stop) s

/-- What a loss tells the holder's own requests (R42 items 1 to 3, R44): the queued writes and the waiting RELEASE are
answered LEASE_LOST, the active erase ranges get the stop request, and the notice is posted. -/
def State.leaseLost (s : State) (n : RegionId) (p : Port) : State :=
  (((s.answerSlots p (s.slotsWhere p (Entry.queuedWriteOn n)) .leaseLost).answerWhere p (s.region n).release
    .leaseLost).stopSlots p (s.slotsWhere p (Entry.activeRangeOn n)) .leaseLost).post p
      ⟨n, .leaseLost, (s.region n).generation⟩

/-- The lease loss of R42 for the holder `p`. `byReset` is a loss by the reset of the holder's port, with the differences
of R45; a revoke out of RELEASING answers the waiting RELEASE (R44). -/
def State.leaseLoss (s : State) (n : RegionId) (p : Port) (byReset : Bool) : State :=
  let s := if byReset then s else s.leaseLost n p
  if s.writeInProgress p n then s.setRegion n { (s.region n).leaseEnded with state := .closing }
  else s.leaseEnd n p none

/-- A region becomes FREE (R23): its record is cleared, the Table Epoch is incremented, and the RETIRE that waits for it is
answered DONE (R22). -/
def State.freeRegion (s : State) (n : RegionId) : State :=
  match (s.region n).pendingRetire with
  | none => { s.setRegion n .free with epoch := s.epoch + 1#16 }
  | some e => ({ s.setRegion n .free with epoch := s.epoch + 1#16 }).answer e.port e.slot .done (.epoch (s.epoch + 1#16))

/-- An entry leaves QUEUED and ACTIVE: it leaves the outstanding set of its port's RELEASE, and the last one to leave ends
the lease (R40). -/
def State.leaveRelease (s : State) (p : Port) (k : Slot) (n : RegionId) : State :=
  if (s.region n).state == .releasing && (s.region n).holder == some p && (s.region n).outstanding.contains k then
    if ((s.region n).outstanding.erase k).isEmpty then s.leaseEnd n p (s.region n).release
    else s.setRegion n { s.region n with outstanding := (s.region n).outstanding.erase k }
  else s

/-- The end of a started operation is reported to the Region Table (R75): it may complete a release (R40), close CLOSING
(R48) or free a RETIRING region (R22). -/
def State.operationEnded (s : State) (p : Port) (k : Slot) (n : RegionId) (write : Bool) : State :=
  let s := s.leaveRelease p k n
  match (s.region n).state with
  | .closing => if write then s.leaseEnd n p none else s
  | .retiring => if s.inProgress n then s else s.freeRegion n
  | .free | .opened | .leased | .releasing => s

/-- Ends one entry (R74, R75, R91): a DRAINING one becomes VACANT, any other is answered. -/
def State.endEntry (s : State) (p : Port) (k : Slot) (result : Result) (values : Values := .none)
    (payload : Option (List Byte) := none) : State :=
  if (s.entry p k).state == .draining then s.vacate p k else s.answer p k result values payload

/-- What the end of an entry means to the Region Table, with the entry as it stood before the event (R40, R75, R91 item 5):
a started operation is reported; a QUEUED entry leaves the outstanding set. -/
def State.entryGone (s : State) (p : Port) (k : Slot) (before : Entry) : State :=
  match before.region with
  | none => s
  | some n => if before.state.running then s.operationEnded p k n before.isWrite else s.leaveRelease p k n

/-- The Region Table's consequences of the ends of entries, each given as it stood before its end (R75, R91): by increasing
region number (R178), with the answers they cause in admission order (R49, R144). -/
def State.reportEnds (s : State) (gone : List (EntryRef × Entry)) : State :=
  s.inAdmissionOrder fun s =>
    allRegions.foldl (fun s n =>
      gone.foldl (fun s x => if x.2.region == some n then s.entryGone x.1.port x.1.slot x.2 else s) s) s

end Sys2Proof.Machine
end

