-- ==== Sys2Proof/Machine/Leases.lean ====
section
/-! DEFINITION. The lease requests CLAIM, RENEW and RELEASE (chapter 2) and the watch requests WATCH and UNWATCH
(chapter 9). -/

namespace Sys2Proof.Machine

/-- A refused request is answered with its refusal and nothing else changes; a request that passes is carried out (R11,
R142). -/
def State.checked {α : Type} (s : State) (p : Port) (k : Slot) (check : Except Result α) (act : α → State) : State :=
  match check with
  | .error refusal => s.answer p k refusal
  | .ok a => act a

/-! ### CLAIM (R29 to R31) -/

/-- The checks of CLAIM, in order (R29). -/
def State.claimCheck (s : State) (p : Port) (b : Byte) : Except Result RegionId :=
  match s.named b with
  | none => .error .noRegion
  | some n =>
    let r := s.region n
    if r.state = .retiring then .error .retired
    else if !r.writeRights.has p then .error .noRight
    else if r.holder = some p then .error .alreadyHolder
    else if r.queue.any (fun c => c.port == p) then .error .alreadyWaiting
    else if Config.leaseLimit ≤ s.leaseCount p then .error .leaseLimit
    else .ok n

/-- A CLAIM that passes its checks (R30, R31): granted on an OPEN region, HELD, or queued with its entry WAITING. -/
def State.claimAccepted (s : State) (p : Port) (k : Slot) (n : RegionId) (term wait : Half) : State :=
  let r := s.region n
  if r.state = .opened then s.grant n p k term.toNat
  else if wait = 0#16 then s.answer p k .held
  else if Config.queueLimit ≤ r.queue.length then s.answer p k .held
  else s.setRegion n { r with queue := r.queue ++ [⟨p, term.toNat, wait.toNat, k⟩] }

/-- CLAIM (R29). -/
def execClaim (p : Port) (tag region : Byte) (term wait : Half) (s : State) : Host.Outcome State Fault Refusal :=
  request p tag (.claim region term wait)
    (fun k s => s.checked p k (s.claimCheck p region) fun n => s.claimAccepted p k n term wait) s

/-! ### RENEW (R35) and RELEASE (R39) -/

/-- The LEASED region of a holder, which RENEW and RELEASE act on (R35, R39). -/
def State.heldLease (s : State) (p : Port) (b : Byte) : Except Result RegionId :=
  match s.named b with
  | none => .error .notHolder
  | some n =>
    if (s.region n).state = .leased ∧ (s.region n).holder = some p then .ok n else .error .notHolder

/-- A renewal (R35). -/
def State.renewed (s : State) (p : Port) (k : Slot) (n : RegionId) (term : Half) : State :=
  let r := s.region n
  let t := grantedTerm s.settings r.defaultTerm term.toNat
  (s.setRegion n { r with granted := some t, remaining := t }).answer p k .done (.term t)

/-- RENEW (R35). -/
def execRenew (p : Port) (tag region : Byte) (term : Half) (s : State) : Host.Outcome State Fault Refusal :=
  request p tag (.renew region term)
    (fun k s => s.checked p k (s.heldLease p region) fun n => s.renewed p k n term) s

/-- The entries of the holder that are outstanding for a RELEASE (R39). -/
def State.outstandingFor (s : State) (p : Port) (n : RegionId) : List Slot :=
  s.slotsWhere p fun e => (e.state == .queued || e.state == .active) && e.region == some n

/-- An accepted release (R39): the lease ends at once, or the region becomes RELEASING and the entry stays
WAITING. -/
def State.released (s : State) (p : Port) (k : Slot) (n : RegionId) : State :=
  let out := s.outstandingFor p n
  if out.isEmpty then s.leaseEnd n p (some k)
  else s.setRegion n { s.region n with state := .releasing, release := some k, outstanding := out }

/-- RELEASE (R39). -/
def execRelease (p : Port) (tag region : Byte) (s : State) : Host.Outcome State Fault Refusal :=
  request p tag (.release region)
    (fun k s => s.checked p k (s.heldLease p region) fun n => s.released p k n) s

/-! ### WATCH (R172) and UNWATCH (R173) -/

/-- The checks of WATCH, in order (R172). -/
def State.watchCheck (s : State) (p : Port) (b : Byte) : Except Result RegionId :=
  match s.named b with
  | none => .error .noRegion
  | some n =>
    if (s.region n).state = .retiring then .error .retired
    else if !(s.region n).readRights.has p then .error .noRight
    else .ok n

/-- An accepted WATCH (R172). -/
def State.watched (s : State) (p : Port) (k : Slot) (n : RegionId) : State :=
  let r := s.region n
  (s.setRegion n { r with watch := r.watch.insert p }).answer p k .done (.watch r.generation s.epoch)

/-- WATCH (R172). -/
def execWatch (p : Port) (tag region : Byte) (s : State) : Host.Outcome State Fault Refusal :=
  request p tag (.watch region)
    (fun k s => s.checked p k (s.watchCheck p region) fun n => s.watched p k n) s

/-- The named region, or NO_REGION (R2, R14, R173). -/
def State.existing (s : State) (b : Byte) : Except Result RegionId :=
  match s.named b with
  | none => .error .noRegion
  | some n => .ok n

/-- An accepted UNWATCH (R173). -/
def State.unwatched (s : State) (p : Port) (k : Slot) (n : RegionId) : State :=
  (s.setRegion n { s.region n with watch := (s.region n).watch.erase p }).answer p k .done

/-- UNWATCH (R173). -/
def execUnwatch (p : Port) (tag region : Byte) (s : State) : Host.Outcome State Fault Refusal :=
  request p tag (.unwatch region)
    (fun k s => s.checked p k (s.existing region) fun n => s.unwatched p k n) s

end Sys2Proof.Machine
end

