-- ==== Sys2Proof/Machine/Lookups.lean ====
section
/-! DEFINITION. The requests that only report or set the port's own mask: the lookups (R13 to R16), DEVICE_INFO (R133),
READ_SETTING (R183) and SET_ATTENTION (R164). -/

namespace Sys2Proof.Machine

/-- A lookup that finds a region: its summary and the Table Epoch (R13). -/
def State.found (s : State) (p : Port) (k : Slot) (n : RegionId) : State :=
  s.answer p k .done (.lookup s.epoch) (some (regionSummary n (s.region n)))

/-- FIND_NUMBER (R14). -/
def execFindNumber (p : Port) (tag region : Byte) (s : State) : Host.Outcome State Fault Refusal :=
  request p tag (.findNumber region)
    (fun k s => s.checked p k (s.existing region) fun n => s.found p k n) s

/-- A region covers a sector of a device (R3, R15). -/
def Region.covers (r : Region) (d : Dev) (sector : Nat) : Bool :=
  !(r.state == .free) && r.device == some d &&
  decide (r.baseSector ≤ sector) && decide (sector < r.baseSector + r.sectorCount)

/-- The search of FIND_ADDRESS (R15). -/
def State.findAddress (s : State) (device : Byte) (address : Word) : Except Result RegionId :=
  match devOf device with
  | none => .error .malformed
  | some d =>
    match allRegions.find? fun n => (s.region n).covers d (address.toNat / Config.sectorBytes) with
    | none => .error .noRegion
    | some n => .ok n

/-- FIND_ADDRESS (R15). -/
def execFindAddress (p : Port) (tag device : Byte) (address : Word) (s : State) : Host.Outcome State Fault Refusal :=
  request p tag (.findAddress device address)
    (fun k s => s.checked p k (s.findAddress device address) fun n => s.found p k n) s

/-- A non-FREE region carries a non-empty label (R4, R16). -/
def Region.carries (r : Region) (label : List Byte) : Bool :=
  !(r.state == .free) && !label.isEmpty && r.label == label

/-- The search of FIND_LABEL (R16). -/
def State.findLabel (s : State) (label : LabelField) : Except Result RegionId :=
  match labelOf label with
  | none => .error .malformed
  | some l =>
    match allRegions.find? fun n => (s.region n).carries l with
    | none => .error .noRegion
    | some n => .ok n

/-- FIND_LABEL (R16). -/
def execFindLabel (p : Port) (tag : Byte) (label : LabelField) (s : State) : Host.Outcome State Fault Refusal :=
  request p tag (.findLabel label)
    (fun k s => s.checked p k (s.findLabel label) fun n => s.found p k n) s

/-- The device a request names, or MALFORMED (R133). -/
def deviceNamed (device : Byte) : Except Result Dev :=
  match devOf device with
  | none => .error .malformed
  | some d => .ok d

/-- DEVICE_INFO (R133). -/
def execDeviceInfo (p : Port) (tag device : Byte) (s : State) : Host.Outcome State Fault Refusal :=
  request p tag (.deviceInfo device)
    (fun k s => s.checked p k (deviceNamed device) fun d =>
      s.answer p k .done .record (some (deviceInfoBytes (s.seq d) (s.profile d)))) s

/-- The value READ_SETTING returns for an identifier, or BAD_SETTING (R183). -/
def State.settingValue (s : State) (id : Byte) : Except Result Nat :=
  if id = 10#8 then .ok (adminCode s.admin)
  else match s.settings.value id.toNat with
    | none => .error .badSetting
    | some v => .ok v

/-- READ_SETTING (R183). -/
def execReadSetting (p : Port) (tag setting : Byte) (s : State) : Host.Outcome State Fault Refusal :=
  request p tag (.readSetting setting)
    (fun k s => s.checked p k (s.settingValue setting) fun v =>
      s.answer p k .done .record (some (setting :: halfOf v))) s

/-- The mask a SET_ATTENTION carries, or MALFORMED (R164). -/
def maskCarried (mask : Byte) : Except Result Mask :=
  match maskOf mask with
  | none => .error .malformed
  | some m => .ok m

/-- SET_ATTENTION (R164). -/
def execSetAttention (p : Port) (tag mask : Byte) (s : State) : Host.Outcome State Fault Refusal :=
  request p tag (.setAttention mask)
    (fun k s => s.checked p k (maskCarried mask) fun m =>
      (s.setLink p { s.link p with mask := m }).answer p k .done (.mask mask)) s

end Sys2Proof.Machine
end

