-- ==== Sys2Proof/Machine/Bus.lean ====
section
/-! DEFINITION. The Flash Bus Controller: the transactions of R97, requests and grants (R96, R101), the cycles, clock, chip
selects and lanes of R97 to R100, the bits that it samples (R98, R99), and the end of a transaction (R101). -/

namespace Sys2Proof.Machine

/-! ### The transactions the sequencers make (R97) -/

/-- The transaction kind of R97. -/
inductive BusKind where
  | readData | pageProgram | writeEnable | statusRead | clearStatus | sectorErase | suspend | resume | reset | idRead
  deriving DecidableEq, Repr

/-- The kind a use belongs to (R97, "Made by"). -/
def BusUse.kind : BusUse → BusKind
  | .readData | .verifyRead => .readData
  | .pageProgram => .pageProgram
  | .writeEnable => .writeEnable
  | .latchStatus | .pollStatus | .suspendingStatus | .resumingStatus | .recoveryStatus => .statusRead
  | .clearStatus => .clearStatus
  | .sectorErase => .sectorErase
  | .suspend => .suspend
  | .resume => .resume
  | .reset => .reset
  | .idRead => .idRead

/-- A transaction of one opcode byte on one lane. -/
def opcodeOnly (use : BusUse) (opcode : Byte) : Transaction :=
  { use := use, opcode := opcode, addrBytes := 0, addr := 0#32, dummy := 0, out := [], inCount := 0,
    lanes := .single }

/-- A status read: the status opcode, then one byte in (R97). -/
def statusRead (use : BusUse) (p : Profile) : Transaction := { opcodeOnly use p.statusOp with inCount := 1 }

/-- A read data transaction (R55, R63, R97). -/
def readData (use : BusUse) (p : Profile) (addr : Word) (length : Nat) : Transaction :=
  { use := use, opcode := p.readOp, addrBytes := p.addressBytes, addr := addr, dummy := p.readDummy, out := [],
    inCount := length, lanes := p.readLanes }

/-- A page program transaction (R61, R97). -/
def pageProgram (p : Profile) (addr : Word) (data : List Byte) : Transaction :=
  { use := .pageProgram, opcode := p.programOp, addrBytes := p.addressBytes, addr := addr, dummy := 0, out := data,
    inCount := 0, lanes := p.programLanes }

/-- A sector-erase transaction, on one lane (R69, R97). -/
def sectorErase (p : Profile) (addr : Word) : Transaction :=
  { opcodeOnly .sectorErase p.eraseOp with addrBytes := p.addressBytes, addr := addr }

/-! ### Requests and grants (R96) -/

/-- Grants the bus to a device's transaction: the divider is read (R98), and the pointer prefers the other device at the
next contested grant (R96). -/
def State.grantBus (s : State) (d : Dev) (t : Transaction) : State :=
  { s with
    bus := { cur := some { dev := d, txn := t, divider := s.settings.clockDivider, elapsed := 0, live := true },
             pointer := otherDev d, gap := s.bus.gap }
    seqs := s.seqs.set d { s.seq d with busRequest := none } }

/-- A sequencer places a request: granted at once on an idle bus where no other request waits, else it waits (R96). -/
def State.place (s : State) (d : Dev) (t : Transaction) : State :=
  if s.bus.cur.isNone && (s.seq (otherDev d)).busRequest.isNone then s.grantBus d t
  else s.setSeq d { s.seq d with busRequest := some t }

/-- After a transaction's end a waiting request is granted: the only one, or the one of the device the pointer prefers
(R96). -/
def State.grantNext (s : State) : State :=
  match s.bus.cur with
  | some _ => s
  | none =>
    let d := s.bus.pointer
    match (s.seq d).busRequest with
    | some t => s.grantBus d t
    | none =>
      match (s.seq (otherDev d)).busRequest with
      | some t => s.grantBus (otherDev d) t
      | none => s

/-- The transaction in progress, when it is one of this device for this use and it shifts in this many bytes. -/
def State.ending (s : State) (d : Dev) (use : BusUse) (bytesIn : Nat) : Option OnBus :=
  match s.bus.cur with
  | none => none
  | some t => if t.dev = d ∧ t.txn.use = use ∧ t.txn.inCount = bytesIn then some t else none

/-- The end command of a transaction is due: RESETN is high and the transaction is in progress. -/
def State.endDue (s : State) (d : Dev) (use : BusUse) (bytesIn : Nat) : Bool :=
  s.resetn && (s.ending d use bytesIn).isSome

/-- The bus after the release of a chip select: no transaction, and 80 ns with both chip selects high (R97). -/
def State.releaseBus (s : State) : State := s.setBus { s.bus with cur := none, gap := Config.gapCycles }

/-- A transaction ends (R101): the bus is released, the requesting sequencer takes the event unless the result is
discarded (R89, R91), and a waiting request is granted (R96). -/
def State.endTransaction (s : State) (effect : State → State) : State :=
  match s.bus.cur with
  | none => s
  | some t => (if t.live then effect s.releaseBus else s.releaseBus).grantNext

/-- A sequencer gives up its transactions: a waiting request is withdrawn and the result of one on the bus will be
discarded (R89, R91, R129). -/
def State.abandonBus (s : State) (d : Dev) : State :=
  let s := s.setSeq d { s.seq d with busRequest := none }
  match s.bus.cur with
  | none => s
  | some t => if t.dev = d then s.setBus { s.bus with cur := some { t with live := false } } else s

/-! ### Cycles, clock and lanes (R97 to R100) -/

/-- A phase of a transaction (R97). -/
inductive BusPhase where
  | command | address | dummy | data
  deriving DecidableEq, Repr

/-- FCLK cycles of a number of bytes in a phase of w lanes (R97). -/
def byteCycles (w : LaneCount) (bytes : Nat) : Nat := bytes * (8 / w.toNat)

/-- FCLK cycles of the command phase. -/
def Transaction.commandCycles (t : Transaction) : Nat := byteCycles t.lanes.cmd 1

/-- FCLK cycles of the address phase. -/
def Transaction.addressCycles (t : Transaction) : Nat := byteCycles t.lanes.addr t.addrBytes

/-- FCLK cycles of the data phase. -/
def Transaction.dataCycles (t : Transaction) : Nat := byteCycles t.lanes.data (t.out.length + t.inCount)

/-- The cycles of a transaction (R97). -/
def Transaction.cycles (t : Transaction) : Nat := t.commandCycles + t.addressCycles + t.dummy + t.dataCycles

/-- The phase of an FCLK cycle, and the cycle's place in the phase; none past the last cycle. -/
def Transaction.phaseAt (t : Transaction) (cycle : Nat) : Option (BusPhase × Nat) :=
  if cycle < t.commandCycles then some (.command, cycle)
  else
    let c := cycle - t.commandCycles
    if c < t.addressCycles then some (.address, c)
    else
      let c := c - t.addressCycles
      if c < t.dummy then some (.dummy, c)
      else
        let c := c - t.dummy
        if c < t.dataCycles then some (.data, c) else none

/-- Internal clock cycles of 10 ns from the assertion of the chip select to its release (R100). -/
def OnBus.length (t : OnBus) : Nat := t.txn.cycles * t.divider

/-- A transaction in progress has its chip select asserted: the gap has passed and its last cycle has not (R97). -/
def Bus.shifting (b : Bus) : Option OnBus :=
  match b.cur with
  | none => none
  | some t => if b.gap = 0 ∧ t.elapsed < t.length then some t else none

/-- The phase the transaction in progress has reached (R95). -/
def Bus.phase (b : Bus) : Option (BusPhase × Nat) := b.shifting.bind fun t => t.txn.phaseAt (t.elapsed / t.divider)

/-- The level of a device's chip select: high (true) unless it is in a transaction (R95, R97). -/
def Bus.chipSelect (b : Bus) (d : Dev) : Bool :=
  match b.shifting with
  | none => true
  | some t => !(t.dev == d)

/-- The level of FCLK: each cycle of d internal cycles begins with its low phase and ends with ⌊d ÷ 2⌋ high (R98). -/
def Bus.fclk (b : Bus) : Bool :=
  match b.shifting with
  | none => false
  | some t => decide (t.divider - t.divider / 2 ≤ t.elapsed % t.divider)

/-- The four lanes FD0..FD3. -/
structure LaneLevels where
  fd0 : Lane
  fd1 : Lane
  fd2 : Lane
  fd3 : Lane
  deriving DecidableEq, Repr

/-- The lanes between transactions (R99). -/
def LaneLevels.between : LaneLevels := ⟨.drive false, .released, .drive true, .drive true⟩

/-- The lanes in cycle k of a phase that shifts bytes out on w lanes (R99): most significant bit first. -/
def outLanes (w : LaneCount) (bytes : List Byte) (k : Nat) : LaneLevels :=
  let b := bytes.getD (k / (8 / w.toNat)) 0#8
  let i := k % (8 / w.toNat)
  match w with
  | .one => ⟨.drive (b.getLsbD (7 - i)), .released, .drive true, .drive true⟩
  | .two => ⟨.drive (b.getLsbD (6 - 2 * i)), .drive (b.getLsbD (7 - 2 * i)), .drive true, .drive true⟩
  | .four => ⟨.drive (b.getLsbD (4 - 4 * i)), .drive (b.getLsbD (5 - 4 * i)), .drive (b.getLsbD (6 - 4 * i)),
              .drive (b.getLsbD (7 - 4 * i))⟩

/-- The address bytes as sent, most significant first (R97). -/
def Transaction.addressWire (t : Transaction) : List Byte := (wordBytes t.addr).drop (4 - t.addrBytes)

/-- The value FD0 last carried before the data phase: the last bit of the last byte sent (R99). -/
def Transaction.lastOnFd0 (t : Transaction) : Bool := ((t.opcode :: t.addressWire).getLastD 0#8).getLsbD 0

/-- The lanes in one FCLK cycle of a transaction (R99). -/
def Transaction.lanesAt (t : Transaction) (cycle : Nat) : LaneLevels :=
  match t.phaseAt cycle with
  | none => .between
  | some (.command, k) => outLanes t.lanes.cmd [t.opcode] k
  | some (.address, k) => outLanes t.lanes.addr t.addressWire k
  | some (.dummy, _) =>
      match t.lanes.data with
      | .one | .two => ⟨.released, .released, .drive true, .drive true⟩
      | .four => ⟨.released, .released, .released, .released⟩
  | some (.data, k) =>
      if t.inCount = 0 then outLanes t.lanes.data t.out k
      else match t.lanes.data with
        | .one => ⟨.drive t.lastOnFd0, .released, .drive true, .drive true⟩
        | .two => ⟨.released, .released, .drive true, .drive true⟩
        | .four => ⟨.released, .released, .released, .released⟩

/-- The lanes of the flash bus (R99). -/
def Bus.lanes (b : Bus) : LaneLevels :=
  match b.shifting with
  | none => .between
  | some t => t.txn.lanesAt (t.elapsed / t.divider)

/-- One cycle of the 100 MHz internal clock on the bus (R97, R98): the gap runs out, then the transaction in progress is
shifted up to its last cycle. -/
def Bus.clock (b : Bus) : Bus :=
  if b.gap ≠ 0 then { b with gap := b.gap - 1 }
  else match b.cur with
    | none => b
    | some t => if t.elapsed < t.length then { b with cur := some { t with elapsed := t.elapsed + 1 } } else b

/-! ### The bits shifted in (R98, R99, R101) -/

/-- The levels of the lines FD0..FD3. -/
structure LineLevels where
  fd0 : Bool
  fd1 : Bool
  fd2 : Bool
  fd3 : Bool
  deriving DecidableEq, Repr

/-- The level of a line: the part's where it drives it, the device's where it is released (R99). -/
def Lane.read (l : Lane) (device : Bool) : Bool :=
  match l with
  | .drive level => level
  | .released => device

/-- The levels of the four lines (R99). -/
def LaneLevels.read (l : LaneLevels) (device : LineLevels) : LineLevels :=
  ⟨l.fd0.read device.fd0, l.fd1.read device.fd1, l.fd2.read device.fd2, l.fd3.read device.fd3⟩

/-- The bits that the lines carry in one cycle of a data phase in on w lanes, most significant first (R99). -/
def laneBits (w : LaneCount) (x : LineLevels) : List Bool :=
  match w with
  | .one => [x.fd1]
  | .two => [x.fd1, x.fd0]
  | .four => [x.fd3, x.fd2, x.fd1, x.fd0]

/-- The bits sampled at the rising edge of FCLK in one cycle of a transaction: those of a data phase in (R98, R99). -/
def Transaction.sampledAt (t : Transaction) (cycle : Nat) (device : LineLevels) : List Bool :=
  match t.phaseAt cycle with
  | some (.data, _) => if t.inCount = 0 then [] else laneBits t.lanes.data ((t.lanesAt cycle).read device)
  | some (.command, _) | some (.address, _) | some (.dummy, _) | none => []

/-- The bits sampled in the present cycle of the internal clock: FCLK rises after the low phase of its cycle (R98). -/
def Bus.sampled (b : Bus) (device : LineLevels) : List Bool :=
  match b.shifting with
  | none => []
  | some t =>
    if t.elapsed % t.divider = t.divider - t.divider / 2 then t.txn.sampledAt (t.elapsed / t.divider) device else []

/-- Bits in groups of eight, each a byte, most significant bit first (R99). -/
def bytesOf : List Bool → List Byte
  | b7 :: b6 :: b5 :: b4 :: b3 :: b2 :: b1 :: b0 :: rest => byteOf [b7, b6, b5, b4, b3, b2, b1, b0] :: bytesOf rest
  | _ => []

/-- The bytes shifted in (R101), by the device's levels at the rising edge of each cycle of the data phase in. -/
def Transaction.received (t : Transaction) (device : Nat → LineLevels) : List Byte :=
  bytesOf ((List.range (byteCycles t.lanes.data t.inCount)).flatMap fun k =>
    t.sampledAt (t.commandCycles + t.addressCycles + t.dummy + k) (device k))

/-- The levels with which a device gives bytes in cycle k of a data phase in on w lanes (R99). A line that the part drives
itself stands as low here; it is not read from the device. -/
def deviceLevels (w : LaneCount) (bytes : List Byte) (k : Nat) : LineLevels :=
  let b := bytes.getD (k / (8 / w.toNat)) 0#8
  let i := k % (8 / w.toNat)
  match w with
  | .one => ⟨false, b.getLsbD (7 - i), false, false⟩
  | .two => ⟨b.getLsbD (6 - 2 * i), b.getLsbD (7 - 2 * i), false, false⟩
  | .four => ⟨b.getLsbD (4 - 4 * i), b.getLsbD (5 - 4 * i), b.getLsbD (6 - 4 * i), b.getLsbD (7 - 4 * i)⟩

/-- A transaction with a data phase in ends (R101). The command carries the bytes that the device gave; they are sampled from
the lanes, and the event has the bytes shifted in, in the order received (DEDUCED, log 27). -/
def State.endReading (s : State) (bytes : List Byte) (effect : List Byte → State → State) : State :=
  match s.bus.cur with
  | none => s
  | some t => s.endTransaction (effect (t.txn.received (deviceLevels t.txn.lanes.data bytes)))

/-- A status read ends: one byte in (R97, R101). -/
def State.endStatus (s : State) (status : Byte) (effect : Byte → State → State) : State :=
  s.endReading [status] fun bytes => effect (bytes.headD 0#8)

end Sys2Proof.Machine
end

