-- ==== Sys2Proof/Machine/Sequencer.lean ====
section
/-! DEFINITION. What a Device Sequencer does inside the commands that reach it: heads and the arbiter (R80 to R83), the
starts of operations and steps (R55, R59, R67, R68), their ends (R62, R64, R70, R75, R87, R88), suspension (R104, R109
to R111), the fault of R91 and the ends of probes and recoveries (R120, R122, R129, R130). -/

namespace Sys2Proof.Machine

/-! ### Where an operation acts (R51) -/

/-- The byte offset of a READ or PROGRAM. -/
def Entry.byteOffset (e : Entry) : Nat :=
  match e.request with
  | some (.read _ o _ _) => o.toNat
  | some (.program _ o _ _ _) => o.toNat
  | _ => 0

/-- The length of a READ. -/
def Entry.readLength (e : Entry) : Nat :=
  match e.request with
  | some (.read _ _ n _) => n.toNat
  | _ => 0

/-- The first sector offset of an ERASE. -/
def Entry.firstSector (e : Entry) : Nat :=
  match e.request with
  | some (.erase _ f _ _) => f.toNat
  | _ => 0

/-- The sector count of an ERASE. -/
def Entry.eraseCount (e : Entry) : Nat :=
  match e.request with
  | some (.erase _ _ n _) => n.toNat
  | _ => 0

/-- The VERIFY flag of a PROGRAM. -/
def Entry.verify (e : Entry) : Bool :=
  match e.request with
  | some (.program _ _ f _ _) => verifyOf f == some true
  | _ => false

/-- The base sector of the region of an entry. -/
def State.baseOf (s : State) (e : Entry) : Nat := (e.region.map fun n => (s.region n).baseSector).getD 0

/-- The flash byte address of the first byte of a READ or PROGRAM: base sector × 4096 + offset (R51). -/
def State.firstByte (s : State) (e : Entry) : Nat := s.baseOf e * Config.sectorBytes + e.byteOffset

/-- The sector of the device that the current step of an erase range erases: base sector + first sector offset + step
number (R51, R67). -/
def State.stepSector (s : State) (e : Entry) : Nat := s.baseOf e + e.firstSector + e.progress

/-! ### Heads and the cyclic order (R80, R82) -/

/-- The head of a port on a device: its oldest QUEUED, ACTIVE or DRAINING entry that names the device (R80). -/
def State.head (s : State) (d : Dev) (p : Port) : Option Slot :=
  (s.exch p).order.find? fun k => (s.entry p k).state.inLine && (s.entry p k).device == some d

/-- The ports in the order of a selection, from the one after the last-served port (R82). -/
def portsAfter : Port → List Port
  | .a => [.b, .c, .a]
  | .b => [.c, .a, .b]
  | .c => [.a, .b, .c]

/-- The first port after the last-served one whose head passes a test, with that head (R82). -/
def State.pick (s : State) (d : Dev) (test : Port → Slot → Bool) : Option EntryRef :=
  (portsAfter (s.seq d).lastServed).findSome? fun p =>
    match s.head d p with
    | none => none
    | some k => if test p k then some ⟨p, k⟩ else none

/-- A head is startable in IDLE: QUEUED, or an erase range between its steps (R81). -/
def Entry.startable (e : Entry) : Bool := e.state == .queued || (e.state.running && e.isErase)

/-! ### Starts and step boundaries (R55, R59, R67, R68, R83) -/

/-- The entry becomes ACTIVE; a DRAINING range stays DRAINING (R83). -/
def Entry.started (e : Entry) : Entry := { e with state := if e.state == .draining then .draining else .active }

/-- The report of a step's beginning: the region is dirty (R36). -/
def State.stepBegun (s : State) (region : Option RegionId) : State :=
  match region with
  | none => s
  | some n => s.setRegion n { s.region n with dirty := true }

/-- A READ starts (R55): ACTIVE, the current operation, its read data transaction requested. `inState` is TRANSFER, or
SUSPENDED for a READ served in a suspension (R110). -/
def State.startRead (s : State) (d : Dev) (r : EntryRef) (inState : DevState) : State :=
  let e := s.entry r.port r.slot
  let s := s.setEntry r.port r.slot e.started
  let s := s.setSeq d { s.seq d with state := inState, current := some r }
  s.place d (readData .readData (s.profile d) (BitVec.ofNat 32 (s.firstByte e)) e.readLength)

/-- A PROGRAM starts and its one step begins (R59, R60, R86, R89): the region is dirty, POLL INTERVAL and PROGRAM TIMEOUT
are read, and the write enable is requested. -/
def State.startProgram (s : State) (d : Dev) (r : EntryRef) : State :=
  let e := s.entry r.port r.slot
  let s := (s.setEntry r.port r.slot e.started).stepBegun e.region
  let s := s.setSeq d { s.seq d with
    state := .transfer, current := some r, stepPoll := s.settings.pollInterval,
    stepTimeout := some s.settings.programTimeout, writeEnables := 1 }
  s.place d (opcodeOnly .writeEnable (s.profile d).writeEnableOp)

/-- A sector step begins at its boundary (R67, R68, R69): the region is dirty, the four settings of the step are read, and
the write enable is requested. -/
def State.startSectorStep (s : State) (d : Dev) (r : EntryRef) : State :=
  let e := s.entry r.port r.slot
  let s := (s.setEntry r.port r.slot e.started).stepBegun e.region
  let s := s.setSeq d { s.seq d with
    state := .transfer, current := some r, stepPoll := s.settings.pollInterval,
    stepTimeout := some s.settings.eraseTimeout, stepSuspendLimit := s.settings.suspendLimit,
    stepDwell := s.settings.resumeDwell, writeEnables := 1 }
  s.place d (opcodeOnly .writeEnable (s.profile d).writeEnableOp)

/-- The result of an erase range that its stop request ends (R72). PORT_RESET stands on DRAINING entries alone, whose
result is discarded (R74). -/
def StopRequest.result : StopRequest → Result
  | .none => .done
  | .cancel => .cancelled
  | .leaseLost => .leaseLost
  | .retired => .retired
  | .portReset => .cancelled

/-- The head that an IDLE device acts on next (R81, R82). -/
def State.nextHead (s : State) (d : Dev) : Option EntryRef := s.pick d fun p k => (s.entry p k).startable

/-- A range that carries a stop request: at its next boundary it ends (R68, R83). -/
def Entry.stopped (e : Entry) : Bool := e.isErase && !(e.stop == .none)

/-- The stopped ranges that the selections of one action meet at their boundaries end with their stop's result and their
progress, or silently where they are DRAINING, and the arbiter selects again from the port after each (R72, R74, R82, R83).
The second component has their entries as they stood. `fuel` bounds the repetitions; each one takes an entry out of the
lines. -/
def State.endStopped (d : Dev) : Nat → State → State × List (EntryRef × Entry)
  | 0, s => (s, [])
  | fuel + 1, s =>
    match s.nextHead d with
    | none => (s, [])
    | some r =>
      let e := s.entry r.port r.slot
      if e.stopped then
        let x := State.endStopped d fuel
          ((s.setSeq d { s.seq d with lastServed := r.port }).endEntry r.port r.slot e.stop.result)
        (x.1, (r, e) :: x.2)
      else (s, [])

/-- The selected head is started, or reaches the boundary of its next step (R82, R83). -/
def State.startNext (s : State) (d : Dev) : State :=
  match s.nextHead d with
  | none => s
  | some r =>
    let e := s.entry r.port r.slot
    let s := s.setSeq d { s.seq d with lastServed := r.port }
    if e.isRead then s.startRead d r .transfer
    else if e.isProgram then s.startProgram d r
    else s.startSectorStep d r

/-- An action that ends with the selections of an IDLE device (R82, R83). `own` ends the entries `gone` themselves, if any,
and leaves the device IDLE; the stopped ranges that the selections meet end in the same action. The answers of all these
entries join first, in admission order (R144); then come the Region Table's consequences of all the ends, by increasing
region number (R75, R178), with the answers they cause; last, the selected head starts (log 23). The three ports have 24
entries. -/
def State.endAndSelect (s : State) (d : Dev) (own : State → State) (gone : List (EntryRef × Entry)) : State :=
  let x := State.endStopped d 25 (own s)
  ((s.regroup x.1).reportEnds (gone ++ x.2)).startNext d

/-- The selection of an IDLE device (R82, R83). -/
def State.selectIdle (s : State) (d : Dev) : State := s.endAndSelect d id []

/-! ### Ends of steps and operations (R75, R87, R88) -/

/-- The record after a step or operation: IDLE, no current operation, no step timeout, dwell or suspend count, and the port
of the operation as last served (R78, R87, R88, R105, R115). The step suspend limit and the step dwell keep what the step
read, though R102 speaks of idle values 'absent, or 0': no rule clears them (DESIGN CHOICE, safe, log 28). -/
def Sequencer.idled (q : Sequencer) (p : Port) : Sequencer :=
  { q with state := .idle, current := none, suspendCount := 0, lastServed := p, dwellTimer := none,
           stepTimeout := none, writeEnables := 0 }

/-- An operation ends and the device returns to IDLE (R75, R88): the entry is answered, the arbiter selects, and the Region
Table's consequences follow, with those of the stopped ranges that the selection ends (R83). -/
def State.endOperation (s : State) (d : Dev) (r : EntryRef) (result : Result) (values : Values)
    (payload : Option (List Byte)) : State :=
  s.endAndSelect d
    (fun s => (s.setSeq d ((s.seq d).idled r.port)).endEntry r.port r.slot result values payload)
    [(r, s.entry r.port r.slot)]

/-- A sector step has completed (R70): progress rises by one, the range ends at its last step, or it yields. -/
def State.sectorStepCompleted (s : State) (d : Dev) (r : EntryRef) : State :=
  let e := s.entry r.port r.slot
  let e' := { e with progress := e.progress + 1 }
  let s := s.setEntry r.port r.slot e'
  if e'.progress < e'.eraseCount then (s.setSeq d ((s.seq d).idled r.port)).selectIdle d
  else s.endOperation d r e'.stop.result .none none

/-- Polling of a step has ended with a final status byte (R62, R63, R69, R87): the fail bit is tested, with the clear-status
transaction on failure; a PROGRAM goes on to its verify read or ends, a sector step has completed. Where the fail bit calls
for the clear-status transaction, the step ends after it (R85), not at this byte: the dwell timer stays until then where
R107 does not remove it, and so does the suspend count (R105; DESIGN CHOICE, safe, log 26). -/
def State.pollingEnded (s : State) (d : Dev) (r : EntryRef) (status : Byte) : State :=
  let e := s.entry r.port r.slot
  let p := s.profile d
  if p.failed status then
    match p.clearOp with
    | some op => (s.setSeq d { s.seq d with state := .transfer }).place d (opcodeOnly .clearStatus op)
    | none => s.endOperation d r (if e.isProgram then .programFail else .eraseFail) .none none
  else if e.isProgram then
    if e.verify then
      (s.setSeq d { s.seq d with state := .transfer }).place d
        (readData .verifyRead p (BitVec.ofNat 32 (s.firstByte e)) e.payload.length)
    else s.endOperation d r .done .none none
  else s.sectorStepCompleted d r

/-- The issuing transaction of a step after its write enable (R60, R61, R69). -/
def State.issueStep (s : State) (d : Dev) (r : EntryRef) : State :=
  let e := s.entry r.port r.slot
  let p := s.profile d
  if e.isProgram then s.place d (pageProgram p (BitVec.ofNat 32 (s.firstByte e)) e.payload)
  else s.place d (sectorErase p (BitVec.ofNat 32 (s.stepSector e * Config.sectorBytes)))

/-- UNSETTLED (R56): the region is dirty and the reading port is not its holder. -/
def State.unsettled (s : State) (p : Port) (n : RegionId) : Bool :=
  (s.region n).dirty && !((s.region n).holder == some p)

/-- What a READ's DONE carries (R56). -/
def State.readValues (s : State) (p : Port) (e : Entry) : Values :=
  match e.region with
  | none => .none
  | some n => .read (s.region n).generation (s.unsettled p n)

/-! ### Suspension (R104, R109 to R111) -/

/-- A READ touches a sector of the device (R104): one of its bytes lies in it. -/
def State.readTouches (s : State) (e : Entry) (sector : Nat) : Bool :=
  decide (s.firstByte e / Config.sectorBytes ≤ sector) &&
  decide (sector ≤ (s.firstByte e + e.readLength - 1) / Config.sectorBytes)

/-- The head of a port is an eligible READ for the suspension of a range's step (R104). -/
def State.eligible (s : State) (range : EntryRef) (p : Port) (k : Slot) : Bool :=
  let e := s.entry p k
  e.isRead && e.state == .queued && !(p == range.port) &&
  !s.readTouches e (s.stepSector (s.entry range.port range.slot))

/-- Resume (R111): the range is the current operation again, in RESUMING, and the resume transaction is requested. -/
def State.resume (s : State) (d : Dev) (range : EntryRef) : State :=
  let s := s.setSeq d { s.seq d with state := .resuming, current := some range, readQuota := none, readsServed := 0 }
  match (s.profile d).suspendSet with
  | none => s
  | some x => s.place d (opcodeOnly .resume x.resumeOp)

/-- A selection moment of a suspension (R109): resume at the quota or without an eligible READ, else start one (R110). -/
def State.selectSuspended (s : State) (d : Dev) (range : EntryRef) : State :=
  let q := s.seq d
  if q.readQuota == some q.readsServed then s.resume d range
  else match s.pick d (s.eligible range) with
    | none => s.resume d range
    | some r =>
      (s.setSeq d { q with lastServed := r.port, readsServed := q.readsServed + 1 }).startRead d r .suspended

/-- Entry to SUSPENDED (R107, R109): the suspend and poll timers are removed, the quota is read, and the first selection
moment follows. -/
def State.enterSuspended (s : State) (d : Dev) (range : EntryRef) : State :=
  (s.setSeq d { s.seq d with
    state := .suspended, current := none, suspendedStep := some range, suspendTimer := none, pollTimer := none,
    readQuota := some s.settings.suspendReads, readsServed := 0 }).selectSuspended d range

/-! ### Entries ended by their device (R76, R91, R122, R129) -/

/-- The slots of a port's line on a device that pass a test, in admission order. -/
def State.lineWhere (s : State) (d : Dev) (p : Port) (test : Entry → Bool) : List Slot :=
  s.slotsWhere p fun e => e.state.inLine && e.device == some d && test e

/-- The result of an entry at the fault of its device (R91 items 2 to 4): DEVICE_TIMEOUT for the step in flight. -/
def faultResult (inFlight : Option EntryRef) (p : Port) (k : Slot) : Result :=
  if inFlight == some ⟨p, k⟩ then .deviceTimeout else .deviceFault

/-- Ends entries of a device: the answers, in admission order, then the Region Table's consequences, by increasing region
number, with the answers they cause in admission order (R91, R178). -/
def State.endEntries (s : State) (ended : List (EntryRef × Result)) : State :=
  (s.inAdmissionOrder fun s => ended.foldl (fun s x => s.endEntry x.1.port x.1.slot x.2) s).reportEnds
    (ended.map fun x => (x.1, s.entry x.1.port x.1.slot))

/-- The entries of the lines of a device that pass a test, port by port in admission order, each with its result. -/
def State.lineEntries (s : State) (d : Dev) (test : Entry → Bool) (result : Port → Slot → Result) :
    List (EntryRef × Result) :=
  allPorts.flatMap fun p => (s.lineWhere d p test).map fun k => (⟨p, k⟩, result p k)

/-- The record of a device that enters FAULTED (R91 item 1, R129). The step suspend limit and the step dwell keep what the
last step read (DESIGN CHOICE, safe, log 28). -/
def Sequencer.faulted (q : Sequencer) : Sequencer :=
  { q with state := .faulted, current := none, suspendedStep := none, suspendCount := 0, stepTimer := none,
           pollTimer := none, dwellTimer := none, suspendTimer := none, recoveryTimer := none, stepTimeout := none,
           recoveryPhase := none, writeEnables := 0, resetsSent := 0 }

/-- The fault of R91 by the expiry of a step or suspend timer. -/
def State.enterFaulted (s : State) (d : Dev) : State :=
  let inFlight := (s.seq d).current
  let ended := s.lineEntries d (fun _ => true) (faultResult inFlight)
  ((s.setSeq d (s.seq d).faulted).abandonBus d).endEntries ended

/-- Answers the WAITING SET_PROFILE or RECOVER of a device, which the record ceases to name (R78, R143). -/
def State.answerWaiting (s : State) (d : Dev) (result : Result) (values : Values) : State :=
  match (s.seq d).waitingRequest with
  | none => s
  | some r => (s.setSeq d { s.seq d with waitingRequest := none }).answer r.port r.slot result values

/-- Every QUEUED entry of a device is answered (R76, R122, R129). -/
def State.endQueued (s : State) (d : Dev) (result : Result) : State :=
  s.endEntries (s.lineEntries d (fun e => e.state == .queued) fun _ _ => result)

/-! ### Probes and recoveries (R120, R122, R128 to R130) -/

/-- The absent reason a probe finds, none when the device is there (R120). -/
def Profile.probe (p : Profile) (id : DeviceId) : Option AbsentReason :=
  if id.isNoResponse then some .noResponse
  else match p.expectedId with
    | none => none
    | some x => if x == id then none else some .idMismatch

/-- A probe starts (R120). -/
def State.requestIdRead (s : State) (d : Dev) : State := s.place d (.idRead (s.profile d).idOp)

/-- The end of a probe (R120, R122, R124, R130): the device is IDLE and selects, or it is ABSENT and its QUEUED entries are
answered; the WAITING request is answered first. -/
def State.probeEnd (s : State) (d : Dev) (id : DeviceId) : State :=
  match (s.profile d).probe id with
  | none =>
    let s := s.setSeq d { s.seq d with
      state := .idle, absentReason := none, probedId := some id, recoveryPhase := none, resetsSent := 0 }
    (s.answerWaiting d .done (.probed id)).selectIdle d
  | some reason =>
    let s := s.setSeq d { s.seq d with
      state := .absent, absentReason := some reason, probedId := some id, recoveryPhase := none, resetsSent := 0 }
    (s.answerWaiting d .deviceAbsent (.absent id reason)).endQueued d .deviceAbsent

/-- The next reset opcode is sent, or after the last one the recovery delay starts (R128). -/
def State.nextReset (s : State) (d : Dev) : State :=
  let q := s.seq d
  match (s.profile d).resetOps[q.resetsSent]? with
  | some op => (s.setSeq d { q with recoveryPhase := some .reset }).place d (opcodeOnly .reset op)
  | none =>
    s.setSeq d { q with recoveryPhase := some .delay, recoveryTimer := some (s.profile d).recoveryDelay }

end Sys2Proof.Machine
end

