-- ==== Sys2Proof/Machine/Ticks.lean ====
section
/-! DEFINITION. The ticks of the time base (R26, R78, R188) and the expiries of the Lease Timer (R33, R43). -/

namespace Sys2Proof.Machine

/-- One 1 ms tick at a region record (R26): the lease remaining of a LEASED region and every claim's wait are reduced. -/
def Region.msTick (r : Region) : Region :=
  { r with remaining := if r.state == .leased then r.remaining - 1 else r.remaining,
           queue := r.queue.map fun c => { c with wait := c.wait - 1 } }

/-- The 1 ms tick (R26). -/
def State.msTick (s : State) : State := { s with regions := s.regions.map Region.msTick }

/-- One 1 µs tick at a sequencer record (R78): the step timer counts in WAIT_READY and SUSPENDING and is paused elsewhere
(R90), the dwell timer counts in WAIT_READY (R105), the others count while they are present. -/
def Sequencer.usTick (q : Sequencer) : Sequencer :=
  { q with
    stepTimer := if q.state == .waitReady || q.state == .suspending then q.stepTimer.map (· - 1) else q.stepTimer
    dwellTimer := if q.state == .waitReady then q.dwellTimer.map (· - 1) else q.dwellTimer
    pollTimer := q.pollTimer.map (· - 1)
    suspendTimer := q.suspendTimer.map (· - 1)
    recoveryTimer := q.recoveryTimer.map (· - 1) }

/-- The 1 µs tick (R188). -/
def State.usTick (s : State) : State := { s with seqs := ⟨s.seqs.d0.usTick, s.seqs.d1.usTick⟩ }

/-- A lease expiry is raised for the region: LEASED with nothing remaining (R26, log 9). -/
def State.leaseExpired (s : State) (n : RegionId) : Bool :=
  (s.region n).state == .leased && (s.region n).remaining == 0

/-- The lease expiry (R43). -/
def State.leaseExpiry (s : State) (n : RegionId) : State :=
  match (s.region n).holder with
  | none => s
  | some p => s.leaseLoss n p false

/-- The claim record of a port in a region's queue. -/
def Region.claimOf (r : Region) (p : Port) : Option ClaimRecord := r.queue.find? fun c => c.port == p

/-- The claim queue without the record of a port; the others keep their order (R32). -/
def Region.withoutClaim (r : Region) (p : Port) : Region := { r with queue := r.queue.filter fun c => !(c.port == p) }

/-- The claim record of a port leaves a region's queue and its CLAIM is answered (R24, R33, R34). -/
def State.dropClaim (s : State) (n : RegionId) (p : Port) (result : Result) : State :=
  match (s.region n).claimOf p with
  | none => s
  | some c => (s.setRegion n ((s.region n).withoutClaim p)).answer p c.slot result

/-- A wait expiry is raised for a claim record: nothing of its wait remains (R26, log 9). -/
def State.waitExpired (s : State) (n : RegionId) (p : Port) : Bool :=
  match (s.region n).claimOf p with
  | none => false
  | some c => c.wait == 0

/-- MS_TICK (R26). -/
def execMsTick (s : State) : Host.Outcome State Fault Refusal := whenDue s.resetn State.msTick s

/-- US_TICK (R188). -/
def execUsTick (s : State) : Host.Outcome State Fault Refusal := whenDue s.resetn State.usTick s

/-- LEASE_EXPIRY (R43). -/
def execLeaseExpiry (region : RegionId) (s : State) : Host.Outcome State Fault Refusal :=
  whenDue (s.resetn && s.leaseExpired region) (fun s => s.leaseExpiry region) s

/-- WAIT_EXPIRY (R33). -/
def execWaitExpiry (region : RegionId) (claimant : Port) (s : State) : Host.Outcome State Fault Refusal :=
  whenDue (s.resetn && s.waitExpired region claimant) (fun s => s.dropClaim region claimant .waitExpired) s

end Sys2Proof.Machine
end

