-- ==== Sys2Proof/Machine/Admin.lean ====
section
/-! DEFINITION. The administrator requests DEFINE, RETIRE, SET_RIGHTS (chapter 1), SET_PROFILE, RECOVER (chapter 6) and
CONFIGURE (R184). -/

namespace Sys2Proof.Machine

/-- The port is not the administrator (R12, R187). -/
def State.notAdmin (s : State) (p : Port) : Bool := !(s.admin == some p)

/-! ### DEFINE (R17, R19) -/

/-- What a DEFINE writes, once its encodings are read. -/
structure Definition where
  device      : Dev
  base        : Nat
  count       : Nat
  label       : List Byte
  readRights  : PortSet
  writeRights : PortSet
  term        : Nat
  deriving DecidableEq, Repr

/-- The definition that the fields of a DEFINE carry, none when one lies outside its encoding (R12). -/
def definitionOf (device : Byte) (base : Half) (count : Word) (label : LabelField) (readRights writeRights : Byte)
    (term : Half) : Option Definition :=
  match devOf device, labelOf label, rightsOf readRights, rightsOf writeRights with
  | some d, some l, some rr, some wr => some ⟨d, base.toNat, count.toNat, l, rr, wr, term.toNat⟩
  | _, _, _, _ => none

/-- A non-FREE region of the device shares a sector with a range (R17, check 3). -/
def Region.overlaps (r : Region) (d : Dev) (base count : Nat) : Bool :=
  !(r.state == .free) && r.device == some d &&
  decide (r.baseSector < base + count) && decide (base < r.baseSector + r.sectorCount)

/-- The lowest-numbered FREE slot (R19). -/
def State.freeSlot (s : State) : Option RegionId := allRegions.find? fun n => (s.region n).state == .free

/-- The checks of DEFINE after those of R12, in order (R17). -/
def State.defineCheck (s : State) (f : Definition) : Except Result RegionId :=
  if (s.seq f.device).state = .absent then .error .deviceAbsent
  else if f.count = 0 ∨ 65536 < f.count ∨ (s.profile f.device).sectors < f.base + f.count then .error .badRange
  else if allRegions.any (fun n => (s.region n).overlaps f.device f.base f.count) then .error .overlap
  else if allRegions.any (fun n => (s.region n).carries f.label) then .error .labelTaken
  else match s.freeSlot with
    | none => .error .tableFull
    | some n => .ok n

/-- All checks of DEFINE (R12, R17). -/
def State.defineChecks (s : State) (p : Port) (f : Option Definition) : Except Result (RegionId × Definition) :=
  if s.notAdmin p then .error .notAdmin
  else match f with
    | none => .error .malformed
    | some f => (s.defineCheck f).map fun n => (n, f)

/-- The record an accepted DEFINE writes (R19). -/
def Definition.region (f : Definition) : Region :=
  { Region.free with
    state := .opened, device := some f.device, baseSector := f.base, sectorCount := f.count, label := f.label,
    readRights := f.readRights, writeRights := f.writeRights, defaultTerm := f.term }

/-- An accepted DEFINE (R19). -/
def State.defined (s : State) (p : Port) (k : Slot) (n : RegionId) (f : Definition) : State :=
  ({ s.setRegion n f.region with epoch := s.epoch + 1#16 }).answer p k .done (.define n (s.epoch + 1#16))

/-- DEFINE (R17). -/
def execDefine (p : Port) (tag device : Byte) (base : Half) (count : Word) (label : LabelField)
    (readRights writeRights : Byte) (term : Half) (s : State) : Host.Outcome State Fault Refusal :=
  request p tag (.define device base count label readRights writeRights term)
    (fun k s =>
      s.checked p k (s.defineChecks p (definitionOf device base count label readRights writeRights term)) fun x =>
        s.defined p k x.1 x.2) s

/-! ### RETIRE (R20 to R23) -/

/-- The region that RETIRE and SET_RIGHTS act on, after the tests of R12 (R20, R24). -/
def State.inService (s : State) (b : Byte) : Except Result RegionId :=
  match s.named b with
  | none => .error .noRegion
  | some n => if (s.region n).state = .retiring then .error .retired else .ok n

/-- The checks of RETIRE (R12, R20). -/
def State.retireCheck (s : State) (p : Port) (b : Byte) : Except Result RegionId :=
  if s.notAdmin p then .error .notAdmin else s.inService b

/-- The entries of a port that a retirement answers RETIRED: QUEUED ones naming the region, and the WAITING RELEASE and
CLAIMs of the region (R21 items 1, 3 and 4). -/
def State.retiredSlots (s : State) (p : Port) (n : RegionId) : List Slot :=
  let r := s.region n
  s.slotsWhere p (fun e => e.state == .queued && e.region == some n) ++
  (if r.holder == some p then r.release.toList else []) ++
  ((r.queue.filter fun c => c.port == p).map ClaimRecord.slot)

/-- The retirement of a region (R21): the lease is revoked, QUEUED work and claims are answered RETIRED in admission order,
ACTIVE erase ranges are told to stop, and the watchers are told. The region's record then has no holder, claim or
watcher. -/
def State.retireAction (s : State) (n : RegionId) : State :=
  let r := s.region n
  let s := s.inAdmissionOrder fun t =>
    allPorts.foldl (fun t p => t.answerSlots p (s.retiredSlots p n) .retired) t
  let s := allPorts.foldl (fun t p => t.stopSlots p (t.slotsWhere p (Entry.activeRangeOn n)) .retired) s
  let s := match r.holder with
    | none => s
    | some p => s.post p ⟨n, .leaseLost, r.generation⟩
  let s := s.postSet r.watch ⟨n, .retired, r.generation⟩
  s.setRegion n { r.leaseEnded with queue := [], watch := .empty }

/-- An accepted RETIRE (R22): FREE at once, or RETIRING with the entry WAITING. -/
def State.retire (s : State) (p : Port) (k : Slot) (n : RegionId) : State :=
  let s := s.retireAction n
  if s.inProgress n then
    s.setRegion n { s.region n with state := .retiring, pendingRetire := some ⟨p, k⟩ }
  else
    let s := s.freeRegion n
    s.answer p k .done (.epoch s.epoch)

/-- RETIRE (R20). -/
def execRetire (p : Port) (tag region : Byte) (s : State) : Host.Outcome State Fault Refusal :=
  request p tag (.retire region)
    (fun k s => s.checked p k (s.retireCheck p region) fun n => s.retire p k n) s

/-! ### SET_RIGHTS (R24) -/

/-- The checks of SET_RIGHTS (R12, R24). -/
def State.rightsCheck (s : State) (p : Port) (b : Byte) (readRights writeRights : Byte) :
    Except Result (RegionId × PortSet × PortSet) :=
  if s.notAdmin p then .error .notAdmin
  else match rightsOf readRights, rightsOf writeRights with
    | some rr, some wr => (s.inService b).map fun n => (n, rr, wr)
    | _, _ => .error .malformed

/-- Items 2 and 3 of R24: claims without write right are answered NO_RIGHT, and a holder without it is revoked (R44). -/
def State.pruneRights (s : State) (n : RegionId) (wr : PortSet) : State :=
  let s := allPorts.foldl (fun s q => if wr.has q then s else s.dropClaim n q .noRight) s
  match (s.region n).holder with
  | none => s
  | some q => if wr.has q then s else s.leaseLoss n q false

/-- An accepted SET_RIGHTS (R24). -/
def State.rightsSet (s : State) (p : Port) (k : Slot) (n : RegionId) (rr wr : PortSet) : State :=
  let s := { s.setRegion n { s.region n with readRights := rr, writeRights := wr } with epoch := s.epoch + 1#16 }
  let s := s.inAdmissionOrder fun s => s.pruneRights n wr
  s.answer p k .done (.epoch s.epoch)

/-- SET_RIGHTS (R24). -/
def execSetRights (p : Port) (tag region readRights writeRights : Byte) (s : State) :
    Host.Outcome State Fault Refusal :=
  request p tag (.setRights region readRights writeRights)
    (fun k s => s.checked p k (s.rightsCheck p region readRights writeRights) fun x =>
      s.rightsSet p k x.1 x.2.1 x.2.2) s

/-! ### SET_PROFILE (R123, R124) -/

/-- A region of the device keeps it from taking a new profile (R123, check 4). -/
def Region.holdsDevice (r : Region) (d : Dev) : Bool :=
  r.device == some d &&
  (r.state == .leased || r.state == .releasing || r.state == .closing || r.state == .retiring)

/-- A non-FREE region of the device ends beyond a number of sectors (R123, check 5). -/
def Region.exceeds (r : Region) (d : Dev) (sectors : Nat) : Bool :=
  !(r.state == .free) && r.device == some d && decide (sectors < r.baseSector + r.sectorCount)

/-- The checks of SET_PROFILE, in order (R123). -/
def State.profileCheck (s : State) (p : Port) (device : Byte) (record : ProfileRecord) :
    Except Result (Dev × Profile) :=
  if s.notAdmin p then .error .notAdmin
  else match devOf device, parseProfile record with
    | some d, some f =>
      let q := (s.seq d).state
      if q ≠ .idle ∧ q ≠ .faulted ∧ q ≠ .absent then .error .busy
      else if allRegions.any (fun n => (s.region n).holdsDevice d) then .error .busy
      else if allRegions.any (fun n => (s.region n).exceeds d f.sectors) then .error .badRange
      else .ok (d, f)
    | _, _ => .error .malformed

/-- An accepted SET_PROFILE (R124); its entry stays WAITING. -/
def State.profileSet (s : State) (p : Port) (k : Slot) (d : Dev) (f : Profile) : State :=
  let s := s.setProfile d f
  let s := s.setSeq d { s.seq d with state := .probing, absentReason := none, waitingRequest := some ⟨p, k⟩ }
  s.requestIdRead d

/-- SET_PROFILE (R123). -/
def execSetProfile (p : Port) (tag device : Byte) (profile : ProfileRecord) (s : State) :
    Host.Outcome State Fault Refusal :=
  request p tag (.setProfile device profile)
    (fun k s => s.checked p k (s.profileCheck p device profile) fun x => s.profileSet p k x.1 x.2) s

/-! ### RECOVER (R127, R128) -/

/-- The checks of RECOVER, in order (R127). -/
def State.recoverCheck (s : State) (p : Port) (device : Byte) : Except Result Dev :=
  if s.notAdmin p then .error .notAdmin
  else match devOf device with
    | none => .error .malformed
    | some d => if (s.seq d).state ≠ .faulted ∧ (s.seq d).state ≠ .idle then .error .busy else .ok d

/-- An accepted RECOVER (R128); its entry stays WAITING. -/
def State.recover (s : State) (p : Port) (k : Slot) (d : Dev) : State :=
  let s := s.setSeq d { s.seq d with state := .recovering, waitingRequest := some ⟨p, k⟩, resetsSent := 0 }
  s.nextReset d

/-- RECOVER (R127). -/
def execRecover (p : Port) (tag device : Byte) (s : State) : Host.Outcome State Fault Refusal :=
  request p tag (.recover device)
    (fun k s => s.checked p k (s.recoverCheck p device) fun d => s.recover p k d) s

/-! ### CONFIGURE (R184) -/

/-- The checks of CONFIGURE, in order; a CONFIGURE that passes knows the value the setting held (R184). -/
def State.configureCheck (s : State) (p : Port) (setting : Byte) (value : Half) : Except Result Nat :=
  if s.notAdmin p then .error .notAdmin
  else match s.settings.value setting.toNat with
    | none => .error .badSetting
    | some before => if settingAccepts setting.toNat value.toNat then .ok before else .error .badSetting

/-- CONFIGURE (R184). -/
def execConfigure (p : Port) (tag setting : Byte) (value : Half) (s : State) : Host.Outcome State Fault Refusal :=
  request p tag (.configure setting value)
    (fun k s => s.checked p k (s.configureCheck p setting value) fun before =>
      ({ s with settings := s.settings.assign setting.toNat value.toNat }).answer p k .done
        (.configure setting value.toNat before)) s

end Sys2Proof.Machine
end

