-- ==== Sys2Proof/Machine/BusEnds.lean ====
section
/-! DEFINITION. The ends of the transactions of READs and of program and erase steps, the poll turn, and the step timer
(chapters 3 and 4). -/

namespace Sys2Proof.Machine

/-- An event taken on the device's current operation, which is in progress (R7, R79). -/
def State.onCurrent (s : State) (d : Dev) (effect : EntryRef → State) : State :=
  match (s.seq d).current with
  | none => s
  | some r => if (s.entry r.port r.slot).state.running then effect r else s

/-! ### READ_DATA_END (R55, R56, R75, R110) -/

/-- The data of a READ have arrived: the operation ends DONE with generation and UNSETTLED as they stand (R56). A READ
served in SUSPENDED leaves the device SUSPENDED, and its end is a selection moment (R109, R110). -/
def State.readEnded (s : State) (d : Dev) (r : EntryRef) (bytes : List Byte) : State :=
  let values := s.readValues r.port (s.entry r.port r.slot)
  match (s.seq d).suspendedStep with
  | none => s.endOperation d r .done values (some bytes)
  | some range =>
    (((s.setSeq d { s.seq d with current := none }).endEntry r.port r.slot .done values (some bytes)).reportEnds
      [(r, s.entry r.port r.slot)]).selectSuspended d range

/-- READ_DATA_END (R75). -/
def execReadDataEnd (d : Dev) (bytes : List Byte) (s : State) : Host.Outcome State Fault Refusal :=
  whenDue (s.endDue d .readData bytes.length)
    (fun s => s.endReading bytes fun bytes s => s.onCurrent d fun r => s.readEnded d r bytes) s

/-! ### The write enable and the latch check (R60) -/

/-- WRITE_ENABLE_END (R60): the latch status read where the profile has a latch bit, else the issuing transaction. -/
def execWriteEnableEnd (d : Dev) (s : State) : Host.Outcome State Fault Refusal :=
  whenDue (s.endDue d .writeEnable 0)
    (fun s => s.endTransaction fun s => s.onCurrent d fun r =>
      if (s.profile d).latchBit.isSome then s.place d (statusRead .latchStatus (s.profile d)) else s.issueStep d r) s

/-- The latch check (R60): set, the step goes on; not set, one second write enable, and then WRITE_ENABLE_FAIL. -/
def State.latchChecked (s : State) (d : Dev) (r : EntryRef) (status : Byte) : State :=
  if (s.profile d).latched status then s.issueStep d r
  else if (s.seq d).writeEnables < Config.latchTries then
    (s.setSeq d { s.seq d with writeEnables := (s.seq d).writeEnables + 1 }).place d
      (opcodeOnly .writeEnable (s.profile d).writeEnableOp)
  else s.endOperation d r .writeEnableFail .none none

/-- LATCH_STATUS_END (R60). -/
def execLatchStatusEnd (d : Dev) (status : Byte) (s : State) : Host.Outcome State Fault Refusal :=
  whenDue (s.endDue d .latchStatus 1)
    (fun s => s.endStatus status fun status s => s.onCurrent d fun r => s.latchChecked d r status) s

/-! ### The issue of a step (R61, R69, R86, R89, R90, R105) -/

/-- The record at the issue of a step: WAIT_READY, the step timer and the poll timer set. -/
def Sequencer.issued (q : Sequencer) (dwell : Option Nat) : Sequencer :=
  { q with state := .waitReady, stepTimer := q.stepTimeout.map (· * 1000), pollTimer := some q.stepPoll,
           dwellTimer := dwell }

/-- PAGE_PROGRAM_END (R61). -/
def execPageProgramEnd (d : Dev) (s : State) : Host.Outcome State Fault Refusal :=
  whenDue (s.endDue d .pageProgram 0)
    (fun s => s.endTransaction fun s => s.setSeq d ((s.seq d).issued none)) s

/-- SECTOR_ERASE_END (R69). -/
def execSectorEraseEnd (d : Dev) (s : State) : Host.Outcome State Fault Refusal :=
  whenDue (s.endDue d .sectorErase 0)
    (fun s => s.endTransaction fun s => s.setSeq d ((s.seq d).issued (some (s.seq d).stepDwell))) s

/-! ### Polling (R86, R87, R106) -/

/-- A poll turn falls: WAIT_READY with its poll timer run out (R86). -/
def State.pollDue (s : State) (d : Dev) : Bool :=
  s.resetn && (s.seq d).state == .waitReady && (s.seq d).pollTimer == some 0

/-- The four tests of a suspension, on a sector step (R106). -/
def State.suspends (s : State) (d : Dev) (r : EntryRef) : Bool :=
  let q := s.seq d
  (s.entry r.port r.slot).isErase && (s.profile d).suspendSet.isSome && q.dwellTimer.isNone &&
  decide (q.suspendCount < q.stepSuspendLimit) && (s.pick d (s.eligible r)).isSome

/-- A poll turn (R86, R106): a suspension begins, or a status read is requested. -/
def State.pollTurn (s : State) (d : Dev) (r : EntryRef) : State :=
  let q := s.seq d
  match (s.profile d).suspendSet, s.suspends d r with
  | some x, true =>
    (s.setSeq d { q with state := .suspending, suspendCount := q.suspendCount + 1, pollTimer := none }).place d
      (opcodeOnly .suspend x.suspendOp)
  | _, _ => (s.setSeq d { q with pollTimer := none }).place d (statusRead .pollStatus (s.profile d))

/-- POLL_TURN (R86). -/
def execPollTurn (d : Dev) (s : State) : Host.Outcome State Fault Refusal :=
  whenDue (s.pollDue d) (fun s => s.onCurrent d fun r => s.pollTurn d r) s

/-- The end of a poll (R86, R87): busy, the poll timer is set again; not busy, polling ends with this byte. -/
def State.polled (s : State) (d : Dev) (r : EntryRef) (status : Byte) : State :=
  let q := s.seq d
  if (s.profile d).busy status then s.setSeq d { q with pollTimer := some q.stepPoll }
  else (s.setSeq d { q with stepTimer := none, pollTimer := none }).pollingEnded d r status

/-- POLL_STATUS_END (R87). -/
def execPollStatusEnd (d : Dev) (status : Byte) (s : State) : Host.Outcome State Fault Refusal :=
  whenDue (s.endDue d .pollStatus 1)
    (fun s => s.endStatus status fun status s => s.onCurrent d fun r => s.polled d r status) s

/-! ### The clear-status transaction and the verify read (R62, R63) -/

/-- CLEAR_STATUS_END (R62, R69): the operation ends PROGRAM_FAIL or ERASE_FAIL. -/
def execClearStatusEnd (d : Dev) (s : State) : Host.Outcome State Fault Refusal :=
  whenDue (s.endDue d .clearStatus 0)
    (fun s => s.endTransaction fun s => s.onCurrent d fun r =>
      s.endOperation d r (if (s.entry r.port r.slot).isProgram then .programFail else .eraseFail) .none none) s

/-- The places at which a read-back differs from the payload (R63). -/
def differing (payload back : List Byte) : List Nat :=
  (List.range payload.length).filter fun i => !(payload[i]? == back[i]?)

/-- The end of a verify read (R63, R64). -/
def State.verified (s : State) (d : Dev) (r : EntryRef) (back : List Byte) : State :=
  let e := s.entry r.port r.slot
  match differing e.payload back with
  | [] => s.endOperation d r .done .none none
  | i :: rest =>
    s.endOperation d r .verifyMismatch (.mismatch (BitVec.ofNat 32 (e.byteOffset + i)) (rest.length + 1)) none

/-- VERIFY_READ_END (R63). -/
def execVerifyReadEnd (d : Dev) (bytes : List Byte) (s : State) : Host.Outcome State Fault Refusal :=
  whenDue (s.endDue d .verifyRead bytes.length)
    (fun s => s.endReading bytes fun bytes s => s.onCurrent d fun r => s.verified d r bytes) s

/-! ### The step and dwell timers (R89 to R91, R105) -/

/-- The step timer has run out in WAIT_READY or SUSPENDING (R89, R90, R108). -/
def State.stepTimedOut (s : State) (d : Dev) : Bool :=
  s.resetn && ((s.seq d).state == .waitReady || (s.seq d).state == .suspending) && (s.seq d).stepTimer == some 0

/-- STEP_TIMER_EXPIRY (R89, R91). -/
def execStepTimerExpiry (d : Dev) (s : State) : Host.Outcome State Fault Refusal :=
  whenDue (s.stepTimedOut d) (fun s => s.enterFaulted d) s

/-- The dwell has passed: its timer has run out in WAIT_READY (R105). -/
def State.dwellPassed (s : State) (d : Dev) : Bool :=
  s.resetn && (s.seq d).state == .waitReady && (s.seq d).dwellTimer == some 0

/-- DWELL_TIMER_EXPIRY (R105). -/
def execDwellTimerExpiry (d : Dev) (s : State) : Host.Outcome State Fault Refusal :=
  whenDue (s.dwellPassed d) (fun s => s.setSeq d { s.seq d with dwellTimer := none }) s

end Sys2Proof.Machine
end

