-- ==== Sys2Proof/Machine/Flash.lean ====
section
/-! DEFINITION. The flash requests READ, PROGRAM and ERASE (R53, R54, R58, R66) and CANCEL (R147, R148). -/

namespace Sys2Proof.Machine

/-- The last two checks of a flash request (R53): the state of the named device. -/
def State.deviceCheck (s : State) (n : RegionId) : Except Result Dev :=
  match (s.region n).device with
  | none => .error .noRegion
  | some d =>
    if (s.seq d).state = .absent then .error .deviceAbsent
    else if (s.seq d).state = .faulted then .error .deviceFault
    else .ok d

/-- Checks 5 to 7 of a flash request: the expected epoch, then the device (R53, R54, R58, R66). -/
def State.epochCheck (s : State) (n : RegionId) (expected : Option Half) : Except Result Dev :=
  if expected.isSome ∧ expected ≠ some s.epoch then .error .stale else s.deviceCheck n

/-- Bytes of a region. -/
def Region.bytes (r : Region) : Nat := r.sectorCount * Config.sectorBytes

/-- The checks of READ, in order (R53, R54). -/
def State.readCheck (s : State) (p : Port) (b : Byte) (offset : Word) (length : Half) (epoch : EpochField) :
    Except Result Dev :=
  match epochOf epoch with
  | none => .error .malformed
  | some expected =>
    match s.named b with
    | none => .error .noRegion
    | some n =>
      let r := s.region n
      if r.state = .retiring then .error .retired
      else if !r.readRights.has p then .error .noRight
      else if length = 0#16 ∨ Config.maxPayload < length.toNat ∨ r.bytes < offset.toNat + length.toNat then
        .error .badRange
      else s.epochCheck n expected

/-- The checks of PROGRAM, in order (R53, R58). -/
def State.programCheck (s : State) (p : Port) (b : Byte) (offset : Word) (flags : Byte) (epoch : EpochField)
    (data : List Byte) : Except Result Dev :=
  match verifyOf flags, epochOf epoch with
  | none, _ => .error .malformed
  | _, none => .error .malformed
  | some _, some expected =>
    match s.named b with
    | none => .error .noRegion
    | some n =>
      let r := s.region n
      if r.state = .retiring then .error .retired
      else if r.state ≠ .leased ∨ r.holder ≠ some p then .error .notHolder
      else if data.length = 0 ∨ r.bytes < offset.toNat + data.length ∨
          Config.pageBytes < offset.toNat % Config.pageBytes + data.length then .error .badRange
      else s.epochCheck n expected

/-- The checks of ERASE, in order (R53, R66). -/
def State.eraseCheck (s : State) (p : Port) (b : Byte) (first : Half) (count : Word) (epoch : EpochField) :
    Except Result Dev :=
  match epochOf epoch with
  | none => .error .malformed
  | some expected =>
    match s.named b with
    | none => .error .noRegion
    | some n =>
      let r := s.region n
      if r.state = .retiring then .error .retired
      else if r.state ≠ .leased ∨ r.holder ≠ some p then .error .notHolder
      else if count = 0#32 ∨ 65536 < count.toNat ∨ r.sectorCount < first.toNat + count.toNat then .error .badRange
      else s.epochCheck n expected

/-- A flash request that passes its checks is QUEUED (R53); on an IDLE device the arbiter selects at once (R82). -/
def State.enqueue (s : State) (p : Port) (k : Slot) (d : Dev) : State :=
  let s := s.setEntry p k { s.entry p k with state := .queued }
  if (s.seq d).state = .idle then s.selectIdle d else s

/-- READ (R54). -/
def execRead (p : Port) (tag region : Byte) (offset : Word) (length : Half) (epoch : EpochField) (s : State) :
    Host.Outcome State Fault Refusal :=
  request p tag (.read region offset length epoch)
    (fun k s => s.checked p k (s.readCheck p region offset length epoch) fun d => s.enqueue p k d) s

/-- PROGRAM (R58). -/
def execProgram (p : Port) (tag region : Byte) (offset : Word) (flags : Byte) (epoch : EpochField)
    (data : List Byte) (s : State) : Host.Outcome State Fault Refusal :=
  request p tag (.program region offset flags epoch data)
    (fun k s => s.checked p k (s.programCheck p region offset flags epoch data) fun d => s.enqueue p k d) s

/-- ERASE (R66). -/
def execErase (p : Port) (tag region : Byte) (first : Half) (count : Word) (epoch : EpochField) (s : State) :
    Host.Outcome State Fault Refusal :=
  request p tag (.erase region first count epoch)
    (fun k s => s.checked p k (s.eraseCheck p region first count epoch) fun d => s.enqueue p k d) s

/-! ### CANCEL (R147, R148) -/

/-- The target of a CANCEL that stands in slot k (R147). -/
def State.cancelTarget (s : State) (p : Port) (k : Slot) (target : Byte) : Option Slot :=
  allSlots.find? fun j =>
    !(j == k) && (s.entry p j).state.holdsTag && (s.entry p j).tag == some target

/-- The CANCEL of a QUEUED flash request (R76, R148): CANCELLED, then the CANCEL's DONE, then a release that the leaving
entry completes (R40). -/
def State.cancelQueued (s : State) (p : Port) (k j : Slot) : State :=
  let region := (s.entry p j).region
  let s := (s.answer p j .cancelled).answer p k .done
  match region with
  | none => s
  | some n => s.leaveRelease p j n

/-- The CANCEL of a WAITING CLAIM (R34): its claim record is removed. -/
def State.cancelClaim (s : State) (p : Port) (k j : Slot) : State :=
  match (s.entry p j).region with
  | none => s.answer p k .tooLate
  | some n => (s.dropClaim n p .cancelled).answer p k .done

/-- A CLAIM. -/
def Entry.isClaim (e : Entry) : Bool := match e.request with | some (.claim ..) => true | _ => false

/-- What a CANCEL does (R147). -/
def State.cancelled (s : State) (p : Port) (k : Slot) (target : Byte) : State :=
  match s.cancelTarget p k target with
  | none => s.answer p k .unknownTag
  | some j =>
    let e := s.entry p j
    if e.state = .queued then s.cancelQueued p k j
    else if e.state = .waiting ∧ e.isClaim then s.cancelClaim p k j
    else if e.state = .active ∧ e.isErase ∧ e.stop = .none then (s.requestStop p j .cancel).answer p k .done
    else s.answer p k .tooLate

/-- CANCEL (R147). -/
def execCancel (p : Port) (tag target : Byte) (s : State) : Host.Outcome State Fault Refusal :=
  request p tag (.cancel target) (fun k s => s.cancelled p k target) s

end Sys2Proof.Machine
end

