-- ==== Sys2Proof/Machine/Link.lean ====
section
/-! DEFINITION. The commands of a host link (chapter 8): the select line, lead bytes, the frames a PUT can carry apart
from the requests, TAKE, STATUS and LINK RESET with the port reset (R150, R166 to R168). -/

namespace Sys2Proof.Machine

/-! ### The select line (R152 to R154) -/

/-- The select line falls (R154): LEAD, and the link status byte is captured. While RESETN is low only the level changes
(R153). -/
def State.selectFallen (s : State) (p : Port) : State :=
  if s.resetn then
    s.setLink p { s.link p with selectLow := true, bits := [], phase := .lead, kind := none, count := 0, item := none,
                                shiftOut := [s.linkStatus p] }
  else s.setLink p { s.link p with selectLow := true }

/-- The link is in a PUT whose frame is not complete (R158). -/
def Phase.inPut : Phase → Bool
  | .putHeader | .putBody | .putCheck => true
  | .idle | .lead | .takeOut | .statusOut | .resetConfirm | .ignored => false

/-- The select line rises (R152): the transaction ends, the bits of a byte not yet complete are discarded, and a PUT cut
short is an early release (R158). -/
def Link.risen (l : Link) : Link :=
  let l := if l.phase.inPut then l.dropFrame else l
  { l with selectLow := false, bits := [], phase := .idle, kind := none, count := 0, item := none, shiftOut := [] }

/-- The select line rises (R152). While RESETN is low only the level changes (R153). -/
def State.selectRisen (s : State) (p : Port) : State :=
  if s.resetn then s.setLink p (s.link p).risen else s.setLink p { s.link p with selectLow := false }

/-- SELECT_FALL (R154). -/
def execSelectFall (p : Port) (s : State) : Host.Outcome State Fault Refusal :=
  whenDue (!(s.link p).selectLow) (fun s => s.selectFallen p) s

/-- SELECT_RISE (R152). -/
def execSelectRise (p : Port) (s : State) : Host.Outcome State Fault Refusal :=
  whenDue (s.link p).selectLow (fun s => s.selectRisen p) s

/-! ### The lead byte (R154, R192) -/

/-- The item a TAKE chooses: the head answer, else the head notice, else the empty frame (R159). -/
def State.chosenItem (s : State) (p : Port) : TakeItem :=
  match (s.exch p).answers with
  | k :: _ => .answer k
  | [] =>
    match s.noticeList p with
    | r :: _ => .notice r
    | [] => .empty

/-- The frame of an item, as its records stand (R159, R191). -/
def State.frameOf (s : State) (p : Port) : TakeItem → List Byte
  | .answer k => answerFrame (s.entry p k)
  | .notice r => noticeFrame r
  | .empty => emptyFrame

/-- A TAKE begins (R159): the item is chosen and its frame fixed. -/
def State.takeBegun (s : State) (p : Port) : State :=
  s.setLink p { s.link p with phase := .takeOut, kind := some .take, count := 0, item := some (s.chosenItem p),
                              shiftOut := s.frameOf p (s.chosenItem p) }

/-- A STATUS begins (R161): its two bytes are captured. -/
def State.statusBegun (s : State) (p : Port) : State :=
  s.setLink p { s.link p with phase := .statusOut, kind := some .status, count := 0,
                              shiftOut := [s.secondStatus p, s.noticeCountByte p] }

/-- A LINK RESET begins (R165): the confirm byte is awaited. -/
def Link.awaitConfirm (l : Link) : Link :=
  { l with phase := .resetConfirm, kind := some .linkReset, count := 0, shiftOut := [] }

/-- A lead byte has been decoded (R154, R192). -/
def State.decoded (s : State) (p : Port) (lead : Byte) : State :=
  match leadKind lead with
  | some .put => s.setLink p (s.link p).startPut
  | some .take => s.takeBegun p
  | some .status => s.statusBegun p
  | some .linkReset => s.setLink p (s.link p).awaitConfirm
  | none => s.setLink p { s.link p with phase := .ignored, count := 0, shiftOut := [] }

/-- A byte that a command carries is shifted in, and its completion has its effect (R152). -/
def State.byteIn (s : State) (p : Port) (b : Byte) (effect : Byte → State → State) : State :=
  let x := (s.link p).shiftIn (bitsOf b)
  x.2.foldl (fun s b => effect b s) (s.setLink p x.1)

/-- A lead byte completes and is decoded (R154). -/
def State.leadCompletes (s : State) (p : Port) (lead : Byte) : State :=
  s.byteIn p lead fun b s => s.decoded p b

/-- PUT (R154, R156). -/
def execPut (p : Port) (s : State) : Host.Outcome State Fault Refusal :=
  whenDue (s.shifts p .lead) (fun s => s.leadCompletes p leadPut) s

/-- TAKE (R154, R159). -/
def execTake (p : Port) (s : State) : Host.Outcome State Fault Refusal :=
  whenDue (s.shifts p .lead) (fun s => s.leadCompletes p leadTake) s

/-- STATUS (R154, R161). -/
def execStatus (p : Port) (s : State) : Host.Outcome State Fault Refusal :=
  whenDue (s.shifts p .lead) (fun s => s.leadCompletes p leadStatus) s

/-- LINK_RESET (R154, R165). -/
def execLinkReset (p : Port) (s : State) : Host.Outcome State Fault Refusal :=
  whenDue (s.shifts p .lead) (fun s => s.leadCompletes p leadLinkReset) s

/-- UNKNOWN_LEAD (R154). -/
def execUnknownLead (p : Port) (lead : Byte) (s : State) : Host.Outcome State Fault Refusal :=
  whenDue (s.shifts p .lead && !namesTransaction lead) (fun s => s.leadCompletes p lead) s

/-! ### Frames of a PUT that are no request (R141, R158) -/

/-- FRAME_TOO_LONG (R158): the four header bytes of a frame whose declared length is above 288. -/
def execFrameTooLong (p : Port) (tag kind : Byte) (declared : Half) (s : State) : Host.Outcome State Fault Refusal :=
  whenDue (s.frameDue p && decide (Config.maxDeclared < declared.toNat))
    (fun s => s.receiveFrame p (frameHead tag kind declared) id) s

/-- CHECK_MISMATCH (R158): a frame whose check bytes are not those of R157. -/
def execCheckMismatch (p : Port) (tag kind : Byte) (params : List Byte) (check : Half) (s : State) :
    Host.Outcome State Fault Refusal :=
  whenDue (s.frameDue p && decide (params.length ≤ Config.maxDeclared) && crc16 (frameBody tag kind params) != check)
    (fun s => s.receiveFrame p (frameWith tag kind params check) id) s

/-- UNKNOWN_KIND (R141): a frame that fails test 4 of R138 takes an entry, which keeps its parameters as received (R139), and
is answered MALFORMED. -/
def execUnknownKind (p : Port) (tag kind : Byte) (params : List Byte) (s : State) : Host.Outcome State Fault Refusal :=
  whenDue (s.frameDue p && decide (params.length ≤ Config.maxDeclared) && !acceptsFrame kind params.length)
    (fun s => s.receiveFrame p (frameGood tag kind params) fun s =>
      let q := Request.unread kind params
      s.admitFrame p tag kind (s.deviceField q) (regionField q) (some q) (payloadOf q) fun k s =>
        s.answer p k .malformed) s

/-! ### TAKE (R159, R160, R179) -/

/-- The item in transit is delivered (R159, R145, R160): an answer's entry becomes VACANT; a notice record that still is
what the frame carried leaves the list; the empty frame changes nothing. -/
def State.delivered (s : State) (p : Port) : TakeItem → State
  | .answer k => s.vacate p k
  | .notice r => s.setNotices p ((s.noticeList p).erase r)
  | .empty => s

/-- The item that a TAKE in progress has not yet delivered. -/
def State.itemInTransit (s : State) (p : Port) : Option TakeItem :=
  if s.shifts p .takeOut then (s.link p).item else none

/-- TAKE_DELIVERY (R159): the second check byte completes, so that all bytes of the frame count as completed (R153), and
further bytes are 00h. -/
def execTakeDelivery (p : Port) (s : State) : Host.Outcome State Fault Refusal :=
  whenDue (s.itemInTransit p).isSome
    (fun s => match s.itemInTransit p with
      | none => s
      | some item =>
        (s.setLink p { s.link p with
          item := none, count := (s.link p).count + (s.link p).shiftOut.length, shiftOut := [] }).delivered p item) s

/-! ### STATUS (R161) -/

/-- The second status byte of a STATUS has not completed yet. -/
def State.statusByteDue (s : State) (p : Port) : Bool :=
  s.shifts p .statusOut && (s.link p).shiftOut.length == 2

/-- STATUS_FLAGS_CLEAR (R161): the second status byte completes, and the flags are cleared. -/
def execStatusFlagsClear (p : Port) (s : State) : Host.Outcome State Fault Refusal :=
  whenDue (s.statusByteDue p)
    (fun s => s.setLink p { s.link p with flags := .clear, count := (s.link p).count + 1,
                                          shiftOut := (s.link p).shiftOut.drop 1 }) s

/-! ### LINK RESET and the port reset (R10, R45, R46, R150, R165 to R168) -/

/-- What the port reset changes in every region record before the leases end (R10, R46): the port's claim record, its
watch, and a pending retire that refers to its entry. -/
def Region.portReset (p : Port) (r : Region) : Region :=
  { r with
    queue := r.queue.filter fun c => !(c.port == p)
    watch := r.watch.erase p
    pendingRetire := match r.pendingRetire with
      | none => none
      | some e => if e.port = p then none else some e }

/-- The sequencer's reference to a WAITING entry of the reset port is removed (R143, R150). -/
def Sequencer.portReset (p : Port) (q : Sequencer) : Sequencer :=
  { q with waitingRequest := match q.waitingRequest with
      | none => none
      | some e => if e.port = p then none else some e }

/-- The leases of a port end, each as the lease loss of R45, by increasing region number (R178). -/
def State.endLeases (s : State) (p : Port) : State :=
  allRegions.foldl (fun s n => if (s.region n).holder == some p then s.leaseLoss n p true else s) s

/-- The port reset (R166 to R168): one action at the link, the Notice Unit, the Exchange, the sequencers' references and
the Region Table. -/
def State.portReset (s : State) (p : Port) : State :=
  let s := s.setLink p { s.link p with flags := .clear, mask := .clear }
  let s := s.setNotices p []
  let s := s.setExch p (s.exch p).portReset
  let s := { s with seqs := ⟨s.seqs.d0.portReset p, s.seqs.d1.portReset p⟩,
                    regions := s.regions.map (Region.portReset p) }
  s.inAdmissionOrder fun s => s.endLeases p

/-- LINK_RESET_CONFIRM (R165): IGNORE, and the port reset if the byte is 6Dh. -/
def execLinkResetConfirm (p : Port) (confirm : Byte) (s : State) : Host.Outcome State Fault Refusal :=
  whenDue (s.shifts p .resetConfirm)
    (fun s => s.byteIn p confirm fun b s =>
      let s := s.setLink p { s.link p with phase := .ignored, count := 0 }
      if b = confirmReset then s.portReset p else s) s

end Sys2Proof.Machine
end

