-- ==== Sys2Proof/Machine/Recovery.lean ====
section
/-! DEFINITION. Recovery and probe (chapter 6): the commands of RECOVERING and PROBING. -/

namespace Sys2Proof.Machine

/-- RESET_TRANSACTION_END (R128). -/
def execResetTransactionEnd (d : Dev) (s : State) : Host.Outcome State Fault Refusal :=
  whenDue (s.endDue d .reset 0)
    (fun s => s.endTransaction fun s =>
      (s.setSeq d { s.seq d with resetsSent := (s.seq d).resetsSent + 1 }).nextReset d) s

/-- The recovery timer of a phase has run out (R128, R129). -/
def State.recoveryTimedOut (s : State) (d : Dev) (phase : RecoveryPhase) : Bool :=
  s.resetn && (s.seq d).state == .recovering && (s.seq d).recoveryPhase == some phase &&
  (s.seq d).recoveryTimer == some 0

/-- The recovery delay has passed (R129): ERASE TIMEOUT and POLL INTERVAL are read and polling begins. -/
def State.recoveryPolling (s : State) (d : Dev) : State :=
  (s.setSeq d { s.seq d with
    recoveryPhase := some .poll, recoveryTimer := some (s.settings.eraseTimeout * 1000),
    stepPoll := s.settings.pollInterval }).place d (statusRead .recoveryStatus (s.profile d))

/-- RECOVERY_DELAY_EXPIRY (R129). -/
def execRecoveryDelayExpiry (d : Dev) (s : State) : Host.Outcome State Fault Refusal :=
  whenDue (s.recoveryTimedOut d .delay) (fun s => s.recoveryPolling d) s

/-- A poll turn of a recovery falls (R129). -/
def State.recoveryPollDue (s : State) (d : Dev) : Bool :=
  s.resetn && (s.seq d).state == .recovering && (s.seq d).recoveryPhase == some .poll &&
  (s.seq d).pollTimer == some 0

/-- RECOVERY_POLL_TURN (R129). -/
def execRecoveryPollTurn (d : Dev) (s : State) : Host.Outcome State Fault Refusal :=
  whenDue (s.recoveryPollDue d)
    (fun s => (s.setSeq d { s.seq d with pollTimer := none }).place d (statusRead .recoveryStatus (s.profile d))) s

/-- A status byte of a recovery (R129, R130). -/
def State.recoveryStatus (s : State) (d : Dev) (status : Byte) : State :=
  if (s.profile d).busy status then s.setSeq d { s.seq d with pollTimer := some (s.seq d).stepPoll }
  else
    (s.setSeq d { s.seq d with
      recoveryPhase := some .probe, recoveryTimer := none, pollTimer := none }).requestIdRead d

/-- RECOVERY_STATUS_END (R129). -/
def execRecoveryStatusEnd (d : Dev) (status : Byte) (s : State) : Host.Outcome State Fault Refusal :=
  whenDue (s.endDue d .recoveryStatus 1) (fun s => s.endStatus status fun status s => s.recoveryStatus d status) s

/-- A recovery has timed out (R129): FAULTED, the RECOVER is answered DEVICE_TIMEOUT, then every QUEUED entry
DEVICE_FAULT. -/
def State.recoveryFailed (s : State) (d : Dev) : State :=
  (((s.setSeq d (s.seq d).faulted).abandonBus d).answerWaiting d .deviceTimeout .none).endQueued d .deviceFault

/-- RECOVERY_TIMER_EXPIRY (R129). -/
def execRecoveryTimerExpiry (d : Dev) (s : State) : Host.Outcome State Fault Refusal :=
  whenDue (s.recoveryTimedOut d .poll) (fun s => s.recoveryFailed d) s

/-- ID_READ_END (R120). -/
def execIdReadEnd (d : Dev) (id0 id1 id2 : Byte) (s : State) : Host.Outcome State Fault Refusal :=
  whenDue (s.endDue d .idRead 3)
    (fun s => s.endReading [id0, id1, id2] fun id s =>
      s.probeEnd d ⟨id.getD 0 0#8, id.getD 1 0#8, id.getD 2 0#8⟩) s

end Sys2Proof.Machine
end

