-- ==== Sys2Proof/Machine/Reset.lean ====
section
/-! DEFINITION. Power-on and RESETN (R189). -/

namespace Sys2Proof.Machine

/-- The link record of the reset state on a port whose select line has a given level (R153). -/
def Link.atReset (selectLow : Bool) : Link := { Link.initial with selectLow := selectLow }

/-- The action at the release of RESETN and at the end of the power-on reset (R189): every block takes its reset state,
ADMSEL is latched (R186), and both sequencers request their ID reads, `first`'s before the other's (R121). The select
lines keep their levels (R153) and the waiting commands stay. -/
def State.resetAction (s : State) (admin : Option Port) (first : Dev) : State :=
  let t := State.blocksReset admin
    ⟨.atReset s.links.a.selectLow, .atReset s.links.b.selectLow, .atReset s.links.c.selectLow⟩ s.pending
  (t.requestIdRead first).requestIdRead (otherDev first)

/-- A link while RESETN is low: its transaction is abandoned, nothing is shifted (R153, R170, R189). -/
def Link.abandoned (l : Link) : Link :=
  { l with bits := [], phase := .idle, kind := none, count := 0, rxBuffer := [], item := none, shiftOut := [] }

/-- RESETN falls (R189): host and flash transactions are abandoned where they stand (R95, R170). -/
def State.resetAsserted (s : State) : State :=
  { s with resetn := false, links := ⟨s.links.a.abandoned, s.links.b.abandoned, s.links.c.abandoned⟩,
           bus := { s.bus with cur := none } }

/-- POWER_ON (R189). -/
def execPowerOn (admsel1 admsel0 : Bool) (first : Dev) (s : State) : Host.Outcome State Fault Refusal :=
  .next (s.resetAction (adminOf admsel1 admsel0) first)

/-- RESETN_ASSERT (R189). -/
def execResetnAssert (s : State) : Host.Outcome State Fault Refusal :=
  whenDue s.resetn State.resetAsserted s

/-- RESETN_RELEASE (R189). -/
def execResetnRelease (admsel1 admsel0 : Bool) (first : Dev) (s : State) : Host.Outcome State Fault Refusal :=
  whenDue (!s.resetn) (fun s => s.resetAction (adminOf admsel1 admsel0) first) s

end Sys2Proof.Machine
end

