-- ==== Sys2Proof/Machine/Suspension.lean ====
section
/-! DEFINITION. Erase suspension (chapter 5): the commands of SUSPENDING and RESUMING. -/

namespace Sys2Proof.Machine

/-- The suspend timer is set to SUSPEND TIMEOUT and a status read is requested at once (R107, R113). -/
def State.watchStatus (s : State) (d : Dev) (use : BusUse) : State :=
  (s.setSeq d { s.seq d with suspendTimer := some s.settings.suspendTimeout }).place d (statusRead use (s.profile d))

/-- SUSPEND_END (R107). -/
def execSuspendEnd (d : Dev) (s : State) : Host.Outcome State Fault Refusal :=
  whenDue (s.endDue d .suspend 0)
    (fun s => s.endTransaction fun s => s.watchStatus d .suspendingStatus) s

/-- The step has ended inside a suspension (R107, R113): its timers are removed, and the fail bit is tested in this byte. -/
def State.endedInSuspension (s : State) (d : Dev) (r : EntryRef) (status : Byte) : State :=
  (s.setSeq d { s.seq d with
    suspendTimer := none, stepTimer := none, dwellTimer := none, suspendedStep := none }).pollingEnded d r status

/-- A status byte in SUSPENDING (R107). -/
def State.suspendingStatus (s : State) (d : Dev) (r : EntryRef) (status : Byte) : State :=
  if (s.profile d).busy status then s.place d (statusRead .suspendingStatus (s.profile d))
  else if (s.profile d).isSuspended status then s.enterSuspended d r
  else s.endedInSuspension d r status

/-- SUSPENDING_STATUS_END (R107). -/
def execSuspendingStatusEnd (d : Dev) (status : Byte) (s : State) : Host.Outcome State Fault Refusal :=
  whenDue (s.endDue d .suspendingStatus 1)
    (fun s => s.endStatus status fun status s => s.onCurrent d fun r => s.suspendingStatus d r status) s

/-- The suspend timer has run out in SUSPENDING or RESUMING (R108, R114). -/
def State.suspendTimedOut (s : State) (d : Dev) : Bool :=
  s.resetn && ((s.seq d).state == .suspending || (s.seq d).state == .resuming) && (s.seq d).suspendTimer == some 0

/-- SUSPEND_TIMER_EXPIRY (R108, R114). -/
def execSuspendTimerExpiry (d : Dev) (s : State) : Host.Outcome State Fault Refusal :=
  whenDue (s.suspendTimedOut d) (fun s => s.enterFaulted d) s

/-- RESUME_END (R113). -/
def execResumeEnd (d : Dev) (s : State) : Host.Outcome State Fault Refusal :=
  whenDue (s.endDue d .resume 0)
    (fun s => s.endTransaction fun s => s.watchStatus d .resumingStatus) s

/-- The record after a resume that took hold (R113): WAIT_READY, a fresh dwell and poll interval. -/
def Sequencer.resumed (q : Sequencer) : Sequencer :=
  { q with state := .waitReady, suspendedStep := none, suspendTimer := none, dwellTimer := some q.stepDwell,
           pollTimer := some q.stepPoll }

/-- A status byte in RESUMING (R113). -/
def State.resumingStatus (s : State) (d : Dev) (r : EntryRef) (status : Byte) : State :=
  if (s.profile d).isSuspended status then s.place d (statusRead .resumingStatus (s.profile d))
  else if (s.profile d).busy status then s.setSeq d (s.seq d).resumed
  else s.endedInSuspension d r status

/-- RESUMING_STATUS_END (R113). -/
def execResumingStatusEnd (d : Dev) (status : Byte) (s : State) : Host.Outcome State Fault Refusal :=
  whenDue (s.endDue d .resumingStatus 1)
    (fun s => s.endStatus status fun status s => s.onCurrent d fun r => s.resumingStatus d r status) s

end Sys2Proof.Machine
end

