-- ==== Sys2Proof/Machine/Dispatch.lean ====
section
/-! DEFINITION. One arm for each command: the command's effect on everything but the queue. -/

namespace Sys2Proof.Machine

def exec (i : Instr) (s : State) : Host.Outcome State Fault Refusal :=
  match i with
  | .powerOn admsel1 admsel0 first => Sys2Proof.Machine.execPowerOn admsel1 admsel0 first s
  | .resetnAssert => Sys2Proof.Machine.execResetnAssert s
  | .resetnRelease admsel1 admsel0 first => Sys2Proof.Machine.execResetnRelease admsel1 admsel0 first s
  | .msTick => Sys2Proof.Machine.execMsTick s
  | .usTick => Sys2Proof.Machine.execUsTick s
  | .leaseExpiry region => Sys2Proof.Machine.execLeaseExpiry region s
  | .waitExpiry region claimant => Sys2Proof.Machine.execWaitExpiry region claimant s
  | .selectFall p => Sys2Proof.Machine.execSelectFall p s
  | .selectRise p => Sys2Proof.Machine.execSelectRise p s
  | .unknownLead p lead => Sys2Proof.Machine.execUnknownLead p lead s
  | .put p => Sys2Proof.Machine.execPut p s
  | .frameTooLong p tag kind declared => Sys2Proof.Machine.execFrameTooLong p tag kind declared s
  | .checkMismatch p tag kind params check => Sys2Proof.Machine.execCheckMismatch p tag kind params check s
  | .unknownKind p tag kind params => Sys2Proof.Machine.execUnknownKind p tag kind params s
  | .claim p tag region term wait => Sys2Proof.Machine.execClaim p tag region term wait s
  | .renew p tag region term => Sys2Proof.Machine.execRenew p tag region term s
  | .release p tag region => Sys2Proof.Machine.execRelease p tag region s
  | .watch p tag region => Sys2Proof.Machine.execWatch p tag region s
  | .unwatch p tag region => Sys2Proof.Machine.execUnwatch p tag region s
  | .findNumber p tag region => Sys2Proof.Machine.execFindNumber p tag region s
  | .findAddress p tag device address => Sys2Proof.Machine.execFindAddress p tag device address s
  | .findLabel p tag label => Sys2Proof.Machine.execFindLabel p tag label s
  | .read p tag region offset length epoch => Sys2Proof.Machine.execRead p tag region offset length epoch s
  | .program p tag region offset flags epoch data => Sys2Proof.Machine.execProgram p tag region offset flags epoch data s
  | .erase p tag region first count epoch => Sys2Proof.Machine.execErase p tag region first count epoch s
  | .define p tag device base count label readRights writeRights term => Sys2Proof.Machine.execDefine p tag device base count label readRights writeRights term s
  | .retire p tag region => Sys2Proof.Machine.execRetire p tag region s
  | .setRights p tag region readRights writeRights => Sys2Proof.Machine.execSetRights p tag region readRights writeRights s
  | .setProfile p tag device profile => Sys2Proof.Machine.execSetProfile p tag device profile s
  | .recover p tag device => Sys2Proof.Machine.execRecover p tag device s
  | .configure p tag setting value => Sys2Proof.Machine.execConfigure p tag setting value s
  | .cancel p tag target => Sys2Proof.Machine.execCancel p tag target s
  | .deviceInfo p tag device => Sys2Proof.Machine.execDeviceInfo p tag device s
  | .readSetting p tag setting => Sys2Proof.Machine.execReadSetting p tag setting s
  | .setAttention p tag mask => Sys2Proof.Machine.execSetAttention p tag mask s
  | .take p => Sys2Proof.Machine.execTake p s
  | .takeDelivery p => Sys2Proof.Machine.execTakeDelivery p s
  | .status p => Sys2Proof.Machine.execStatus p s
  | .statusFlagsClear p => Sys2Proof.Machine.execStatusFlagsClear p s
  | .linkReset p => Sys2Proof.Machine.execLinkReset p s
  | .linkResetConfirm p confirm => Sys2Proof.Machine.execLinkResetConfirm p confirm s
  | .readDataEnd d bytes => Sys2Proof.Machine.execReadDataEnd d bytes s
  | .writeEnableEnd d => Sys2Proof.Machine.execWriteEnableEnd d s
  | .latchStatusEnd d status => Sys2Proof.Machine.execLatchStatusEnd d status s
  | .pageProgramEnd d => Sys2Proof.Machine.execPageProgramEnd d s
  | .sectorEraseEnd d => Sys2Proof.Machine.execSectorEraseEnd d s
  | .pollTurn d => Sys2Proof.Machine.execPollTurn d s
  | .pollStatusEnd d status => Sys2Proof.Machine.execPollStatusEnd d status s
  | .clearStatusEnd d => Sys2Proof.Machine.execClearStatusEnd d s
  | .verifyReadEnd d bytes => Sys2Proof.Machine.execVerifyReadEnd d bytes s
  | .stepTimerExpiry d => Sys2Proof.Machine.execStepTimerExpiry d s
  | .dwellTimerExpiry d => Sys2Proof.Machine.execDwellTimerExpiry d s
  | .suspendEnd d => Sys2Proof.Machine.execSuspendEnd d s
  | .suspendingStatusEnd d status => Sys2Proof.Machine.execSuspendingStatusEnd d status s
  | .suspendTimerExpiry d => Sys2Proof.Machine.execSuspendTimerExpiry d s
  | .resumeEnd d => Sys2Proof.Machine.execResumeEnd d s
  | .resumingStatusEnd d status => Sys2Proof.Machine.execResumingStatusEnd d status s
  | .resetTransactionEnd d => Sys2Proof.Machine.execResetTransactionEnd d s
  | .recoveryDelayExpiry d => Sys2Proof.Machine.execRecoveryDelayExpiry d s
  | .recoveryPollTurn d => Sys2Proof.Machine.execRecoveryPollTurn d s
  | .recoveryStatusEnd d status => Sys2Proof.Machine.execRecoveryStatusEnd d status s
  | .recoveryTimerExpiry d => Sys2Proof.Machine.execRecoveryTimerExpiry d s
  | .idReadEnd d id0 id1 id2 => Sys2Proof.Machine.execIdReadEnd d id0 id1 id2 s

end Sys2Proof.Machine
end

