-- ==== Sys2Proof/Machine/Step.lean ====
section
/-! DEFINITION. One step of the block. -/

namespace Sys2Proof.Machine

/-- What the block does when no command waits: one 10 ns cycle of the internal clock (R98, R188), stopped by nothing but a
low RESETN, which holds the bus (R189). DESIGN CHOICE, unsafe, log 7. -/
def State.idle (s : State) : State := if s.resetn then s.setBus s.bus.clock else s

/-- One step: the command at the front of the queue acts on the state with the queue's rest; on an empty queue the block
idles. -/
def step (s : State) : Host.Outcome State Fault Refusal :=
  match s.pending with
  | [] => .next s.idle
  | c :: rest => exec c { s with pending := rest }

/-- The state with the command that a word spells at the front of its queue; unchanged where the word spells none. -/
def State.withFetchWord (s : State) (nbits w : Nat) : State :=
  match decodeTableWord nbits w with
  | none => s
  | some c => { s with pending := c :: s.pending }

end Sys2Proof.Machine
end

