-- ==== Sys2Proof/Safety.lean ====
section
/-! DEFINITION. What counts as a safe step and a safe run, the invariants, and the words in which claims are stated. -/

namespace Sys2Proof

open Sys2Proof.Machine

/-! ### Steps and runs -/

/-- The next state of an outcome, where it is one. -/
def nextOf (o : Host.Outcome State Fault Refusal) : Option State :=
  match o with
  | .next s => some s
  | .fault _ => none
  | .refused _ => none

/-- The state after a list of commands, each carried out at once; none if one of them stops the block. -/
def after (s : State) : List Instr → Option State
  | [] => some s
  | c :: rest => (nextOf (exec c s)).bind fun t => after t rest

/-- A run of k steps goes on to its end. -/
def safeRun (k : Nat) (s : State) : Prop := ∃ t, Host.Core.run core k s = .next t

/-- The port, the tag and the request of a request command. -/
def requestOf : Instr → Option (Port × Byte × Request)
  | .claim p t r a b => some (p, t, .claim r a b)
  | .renew p t r a => some (p, t, .renew r a)
  | .release p t r => some (p, t, .release r)
  | .watch p t r => some (p, t, .watch r)
  | .unwatch p t r => some (p, t, .unwatch r)
  | .findNumber p t r => some (p, t, .findNumber r)
  | .findAddress p t d a => some (p, t, .findAddress d a)
  | .findLabel p t l => some (p, t, .findLabel l)
  | .read p t r o n e => some (p, t, .read r o n e)
  | .program p t r o f e b => some (p, t, .program r o f e b)
  | .erase p t r f n e => some (p, t, .erase r f n e)
  | .define p t d b n l rr wr m => some (p, t, .define d b n l rr wr m)
  | .retire p t r => some (p, t, .retire r)
  | .setRights p t r rr wr => some (p, t, .setRights r rr wr)
  | .setProfile p t d f => some (p, t, .setProfile d f)
  | .recover p t d => some (p, t, .recover d)
  | .configure p t i v => some (p, t, .configure i v)
  | .cancel p t x => some (p, t, .cancel x)
  | .deviceInfo p t d => some (p, t, .deviceInfo d)
  | .readSetting p t i => some (p, t, .readSetting i)
  | .setAttention p t m => some (p, t, .setAttention m)
  | _ => none

end Sys2Proof

namespace Sys2Proof.Machine

/-! ### Words for the statements -/

/-- The link record after a whole frame has been taken: IGNORE, with the frame in the receive buffer (R156). -/
def Link.afterFrame (l : Link) (tag kind : Byte) (params : List Byte) : Link :=
  { l with phase := .ignored, count := 0, rxBuffer := frameGood tag kind params,
           crc := crc16 (frameBody tag kind params), declared := BitVec.ofNat 16 params.length }

/-- A byte can be shifted in whole on the port, whose link is in the phase: RESETN is high, the select line is low, and no bit
of a byte is in (R152, R153). -/
structure State.Shifts (s : State) (p : Port) (phase : Phase) : Prop where
  resetn  : s.resetn = true
  select  : (s.link p).selectLow = true
  inPhase : (s.link p).phase = phase
  whole   : (s.link p).bits = []

/-- A whole request frame can arrive on the port: RESETN is high, the link waits for a frame, and the frame's kind accepts
its length (R156, R190). -/
structure State.Receives (s : State) (p : Port) (q : Request) : Prop where
  resetn : s.resetn = true
  awaits : (s.link p).awaitsFrame = true
  fits   : acceptsFrame q.code q.wire.length = true

/-- The frame also passes tests 1 to 3 of R138: its tag is not 0 and not held, and k is the lowest-numbered VACANT slot. -/
structure State.Admits (s : State) (p : Port) (tag : Byte) (q : Request) (k : Slot) : Prop extends s.Receives p q where
  tagged  : tag ≠ 0#8
  tagFree : (s.exch p).tagHeld tag = false
  vacant  : (s.exch p).vacantSlot = some k

/-- The state with a whole frame received on a port (R156). -/
def State.received (s : State) (p : Port) (tag : Byte) (q : Request) : State :=
  s.setLink p ((s.link p).afterFrame tag q.code q.wire)

/-- The state with a frame received and its entry taken in slot k, before the checks of its kind (R139). -/
def State.admitted (s : State) (p : Port) (tag : Byte) (q : Request) (k : Slot) : State :=
  (s.received p tag q).setExch p
    ((s.exch p).take k tag q.code (s.deviceField q) (regionField q) (some q) (payloadOf q))

/-- The transaction of the device for this use, with this many bytes in, is on the bus, its result is wanted, and RESETN is
high (R95, R101). -/
structure State.Ends (s : State) (d : Dev) (use : BusUse) (bytesIn : Nat) : Prop where
  resetn : s.resetn = true
  onBus  : ∃ t, s.bus.cur = some t ∧ t.dev = d ∧ t.txn.use = use ∧ t.txn.inCount = bytesIn ∧ t.live = true

/-- The current operation of the device is the entry r, in progress (R7, R79). -/
structure State.Runs (s : State) (d : Dev) (r : EntryRef) : Prop where
  current : (s.seq d).current = some r
  running : (s.entry r.port r.slot).state.running = true

/-- What an end command ends: the device, the use of its transaction and the bytes in. -/
def endOf : Instr → Option (Dev × BusUse × Nat)
  | .readDataEnd d bytes => some (d, .readData, bytes.length)
  | .writeEnableEnd d => some (d, .writeEnable, 0)
  | .latchStatusEnd d _ => some (d, .latchStatus, 1)
  | .pageProgramEnd d => some (d, .pageProgram, 0)
  | .sectorEraseEnd d => some (d, .sectorErase, 0)
  | .pollStatusEnd d _ => some (d, .pollStatus, 1)
  | .clearStatusEnd d => some (d, .clearStatus, 0)
  | .verifyReadEnd d bytes => some (d, .verifyRead, bytes.length)
  | .suspendEnd d => some (d, .suspend, 0)
  | .suspendingStatusEnd d _ => some (d, .suspendingStatus, 1)
  | .resumeEnd d => some (d, .resume, 0)
  | .resumingStatusEnd d _ => some (d, .resumingStatus, 1)
  | .resetTransactionEnd d => some (d, .reset, 0)
  | .recoveryStatusEnd d _ => some (d, .recoveryStatus, 1)
  | .idReadEnd d _ _ _ => some (d, .idRead, 3)
  | _ => none

/-! ### Invariants -/

/-- An Exchange is well formed: the admission order lists its non-VACANT entries (R134), the Answer List its ANSWERED
ones, each once (R145), a VACANT entry has the VACANT column's values (R135), and the tags that are held are distinct and
not 0 (R140). -/
structure Exchange.WellFormed (x : Exchange) : Prop where
  orderOnce   : x.order.Nodup
  orderLists  : ∀ k : Slot, k ∈ x.order ↔ (x.entry k).state ≠ .vacant
  answersOnce : x.answers.Nodup
  answersList : ∀ k : Slot, k ∈ x.answers ↔ (x.entry k).state = .answered
  vacantClear : ∀ k : Slot, (x.entry k).state = .vacant → (x.entry k) = Entry.vacant
  tagsHeld    : ∀ k : Slot, (x.entry k).state.holdsTag = true → ∃ t : Byte, (x.entry k).tag = some t ∧ t ≠ 0#8
  tagsApart   : ∀ j k : Slot, j ≠ k → (x.entry j).state.holdsTag = true → (x.entry k).state.holdsTag = true →
                  (x.entry j).tag ≠ (x.entry k).tag

/-- The lease fields and the claim queue of a region are well formed: a holder exactly in LEASED and RELEASING (R6), a
granted term exactly beside a holder and nothing remaining without one (R25), an empty queue in FREE, OPEN and RETIRING,
at most two claims, of distinct ports with write right, none of them the holder's (R32), and a holder with write right
(R5, R25). -/
structure Region.WellFormed (r : Region) : Prop where
  holderWhen  : r.holder.isSome = (r.state == .leased || r.state == .releasing)
  grantedWhen : r.granted.isSome = r.holder.isSome
  noRemaining : r.holder = none → r.remaining = 0
  queueWhen   : r.state = .free ∨ r.state = .opened ∨ r.state = .retiring → r.queue = []
  queueShort  : r.queue.length ≤ Config.queueLimit
  queueOnce   : (r.queue.map ClaimRecord.port).Nodup
  queueRights : ∀ c ∈ r.queue, r.writeRights.has c.port = true
  holderApart : ∀ p, r.holder = some p → ∀ c ∈ r.queue, c.port ≠ p
  holderRight : ∀ p, r.holder = some p → r.writeRights.has p = true

/-- What a port has of one region: its lease and its waiting claim there (R28). -/
def Region.share (r : Region) (p : Port) : Nat :=
  (if r.holder = some p then 1 else 0) + (if r.queue.any (fun c => c.port == p) then 1 else 0)

/-- The table as a whole: the regions of one device share no sector and end within it (R3), and no label is carried twice
(R4). -/
structure State.TableConsistent (s : State) : Prop where
  apart  : ∀ m n : RegionId, m ≠ n → (s.region m).state ≠ .free → (s.region n).state ≠ .free →
             (s.region m).device = (s.region n).device →
             (s.region m).baseSector + (s.region m).sectorCount ≤ (s.region n).baseSector ∨
             (s.region n).baseSector + (s.region n).sectorCount ≤ (s.region m).baseSector
  inside : ∀ (n : RegionId) (d : Dev), (s.region n).state ≠ .free → (s.region n).device = some d →
             (s.region n).baseSector + (s.region n).sectorCount ≤ (s.profile d).sectors
  labels : ∀ m n : RegionId, m ≠ n → (s.region m).state ≠ .free → (s.region n).state ≠ .free →
             (s.region m).label = (s.region n).label → (s.region m).label = []

/-- The entry stands WAITING with a request of this kind code (R136, R143). -/
def State.waitsAs (s : State) (p : Port) (k : Slot) (kind : Byte) : Prop :=
  (s.entry p k).state = .waiting ∧ (s.entry p k).kind = some kind

/-- What refers to a WAITING entry refers to one of its kind (R143): a claim record to a CLAIM for its region, the waiting
RELEASE of a region to one of its holder, a pending retire to a RETIRE of the region, the waiting request of a device to a
SET_PROFILE or RECOVER for it. The answer that a TAKE is shifting out is ANSWERED (R159). -/
structure State.WaitsReferred (s : State) : Prop where
  claims   : ∀ (n : RegionId), ∀ c ∈ (s.region n).queue,
               s.waitsAs c.port c.slot 0x11#8 ∧ (s.entry c.port c.slot).region = some n
  releases : ∀ (n : RegionId) (k : Slot), (s.region n).release = some k → ∃ p, (s.region n).holder = some p ∧
               s.waitsAs p k 0x13#8 ∧ (s.entry p k).region = some n
  retires  : ∀ (n : RegionId) (e : EntryRef), (s.region n).pendingRetire = some e →
               s.waitsAs e.port e.slot 0x32#8 ∧ (s.entry e.port e.slot).region = some n
  devices  : ∀ (d : Dev) (e : EntryRef), (s.seq d).waitingRequest = some e →
               (s.waitsAs e.port e.slot 0x34#8 ∨ s.waitsAs e.port e.slot 0x35#8) ∧
               (s.entry e.port e.slot).device = some d
  items    : ∀ (p : Port) (k : Slot), (s.link p).item = some (.answer k) →
               (s.link p).phase = .takeOut ∧ (s.entry p k).state = .answered

/-- A Notice List holds at most one record for a region (R176). -/
def noticesOnce (l : List Notice) : Prop := (l.map Notice.region).Nodup

/-- Every setting lies in its range of R181, RESUME DWELL at a multiple of its step. -/
def Settings.inRange (x : Settings) : Prop :=
  ∀ id : Fin 10, ∀ v : Nat, x.value id.val = some v → settingAccepts id.val v = true

/-- Both profile records keep the conditions of R119. -/
def State.profilesValid (s : State) : Prop := ∀ d, (s.profile d).valid = true

end Sys2Proof.Machine
end

