-- ==== Sys2Proof/Certificates/Slice0/Obligations.lean ====
section
/-! DEFINITION. The statements for the provers. Each `def Obligations.<Name> : Prop` is one row of OBLIGATIONS.json. A
statement of a command's result is an equation or gives the next state that exec answers, so it is also the statement that
the command completes there; an equation with a whole state on its right says what stays as it was. -/

open Sys2Proof Sys2Proof.Machine

/-! ### Steps -/

/-- A step carries out the command at the front of the queue on the state with the queue's rest. -/
def Obligations.StepRunsTheFrontCommand : Prop :=
  ∀ (c : Instr) (rest : List Instr) (s : State),
    s.pending = c :: rest → step s = exec c { s with pending := rest }

/-- What a step does when no command waits is the model's choice (log 7): one cycle of the internal clock on the bus. The
cycles and durations of R97 and R100: the table of R100 under the default profile, and the longest transaction of any valid
profile with 256 data bytes. -/
def Obligations.BusCyclesAndDurations : Prop :=
  (∀ s : State, s.pending = [] →
    (s.resetn = false → step s = .next s) ∧
    (s.resetn = true → s.bus.gap ≠ 0 → step s = .next (s.setBus { s.bus with gap := s.bus.gap - 1 })) ∧
    (s.resetn = true → s.bus.gap = 0 → s.bus.cur = none → step s = .next s) ∧
    (∀ t, s.resetn = true → s.bus.gap = 0 → s.bus.cur = some t → t.elapsed < t.txn.cycles * t.divider →
      step s = .next (s.setBus { s.bus with cur := some { t with elapsed := t.elapsed + 1 } })) ∧
    (∀ t, s.resetn = true → s.bus.gap = 0 → s.bus.cur = some t → t.txn.cycles * t.divider ≤ t.elapsed →
      step s = .next s)) ∧
  ((statusRead .pollStatus Profile.default).cycles = 16 ∧ (opcodeOnly .writeEnable 0x06#8).cycles = 8 ∧
  (∀ a, (sectorErase Profile.default a).cycles = 32) ∧
  (∀ a data, data.length = 256 → (pageProgram Profile.default a data).cycles = 2080) ∧
  (∀ use a, (readData use Profile.default a 256).cycles = 2088) ∧
  (∀ use a, (readData use { Profile.default with readLanes := ⟨.four, .four, .four⟩, readDummy := 6 } a 256).cycles =
    526) ∧
  (∀ (p : Profile) use a n, p.valid = true → n ≤ 256 → (readData use p a n).cycles ≤ 2103) ∧
  (∀ (p : Profile) a data, p.valid = true → data.length ≤ 256 → (pageProgram p a data).cycles ≤ 2103) ∧
  (∀ t : OnBus, t.length = t.txn.cycles * t.divider))

/-- Every command answers a next state, and it leaves the waiting commands as they are (log 16). -/
def Obligations.EveryCommandGivesANextState : Prop :=
  ∀ (c : Instr) (s : State), ∃ t, exec c s = .next t ∧ t.pending = s.pending

/-- While RESETN is low only POWER_ON, RESETN_RELEASE and the levels of the select lines change anything (R189, log 6).
RESETN_ASSERT abandons the transactions of the three links and of the flash bus where they stand (R95, R153, R170, R189);
attention is low, the data outputs are released, both flash chip selects are high and FCLK is low. The other records keep
their values until the release (log 6). -/
def Obligations.ResetnLowStopsThePart : Prop :=
  (∀ s : State, s.resetn = false →
    (∀ c : Instr, (∀ a b d, c ≠ .powerOn a b d) → (∀ a b d, c ≠ .resetnRelease a b d) → (∀ p, c ≠ .selectFall p) →
      (∀ p, c ≠ .selectRise p) → exec c s = .next s) ∧
    (∀ p, (s.link p).selectLow = false →
      exec (.selectFall p) s = .next (s.setLink p { s.link p with selectLow := true })) ∧
    (∀ p, (s.link p).selectLow = true →
      exec (.selectRise p) s = .next (s.setLink p { s.link p with selectLow := false })) ∧
    (∀ p, s.attention p = false ∧ s.dataOut p = .released)) ∧
  (∀ s : State, s.resetn = true → ∃ t, exec .resetnAssert s = .next t ∧
    (∀ p, t.link p = { s.link p with
      bits := [], phase := .idle, kind := none, count := 0, rxBuffer := [], item := none, shiftOut := [] }) ∧
    (∀ p, t.attention p = false ∧ t.dataOut p = .released) ∧ (∀ d, t.bus.chipSelect d = true) ∧ t.bus.fclk = false ∧
    t = { s with resetn := false, links := t.links, bus := { s.bus with cur := none } })

/-! ### Power-on and RESETN (R189) -/

/-- POWER_ON in every state, and RESETN_RELEASE while RESETN is low, put every block into its reset state (the table of
R189), latch the administrator (R186), and request both ID reads (R121). The model's choices among the clauses: the levels
of the select lines and the queue stay (logs 5, 22); kind, count, check value and declared length of a link (log 12) and its
bits (log 24) at reset; no gap before the first transaction (log 7); the two counts inside Sequencer.initial (log 14); and
which device's ID read is taken first, which the command carries (log 4). -/
def Obligations.ReleaseTakesTheResetState : Prop :=
  ∀ (s : State) (a1 a0 : Bool) (first : Dev) (c : Instr),
    (c = .powerOn a1 a0 first ∨ (c = .resetnRelease a1 a0 first ∧ s.resetn = false)) →
    ∃ t, exec c s = .next t ∧ t.resetn = true ∧ t.pending = s.pending ∧
      (∀ p, t.link p = { Link.initial with selectLow := (s.link p).selectLow }) ∧
      (∀ p, t.exch p = Exchange.initial) ∧ (∀ p, t.noticeList p = []) ∧
      t.admin = adminOf a1 a0 ∧ t.regions = presetRegions (adminOf a1 a0) ∧ t.epoch = 0#16 ∧
      (∀ d, t.profile d = Profile.default) ∧ t.settings = Settings.initial ∧
      t.seq first = Sequencer.initial ∧
      t.seq (otherDev first) = { Sequencer.initial with busRequest := some (.idRead 0x9F#8) } ∧
      t.bus = { cur := some { dev := first, txn := .idRead 0x9F#8, divider := 4, elapsed := 0, live := true },
                pointer := otherDev first, gap := 0 }

/-! ### Time (chapter 2, R78, R188) -/

/-- The 1 ms tick counts every LEASED region and every claim wait once, and the 1 µs tick the timers of the sequencers: the
step timer in WAIT_READY and SUSPENDING only, the dwell timer in WAIT_READY only (R26, R78, R90, R105, R188). At the wait
expiry (R33), due with nothing of the wait left (log 9), the claim record leaves the queue, the others keep their order, and
its CLAIM is answered WAIT_EXPIRED. -/
def Obligations.TicksAndWaitExpiries : Prop :=
  (∀ s : State, s.resetn = true →
    (∃ t, exec .msTick s = .next t ∧ t = { s with regions := t.regions } ∧
      ∀ n, t.region n = { s.region n with
        remaining := if (s.region n).state = .leased then (s.region n).remaining - 1 else (s.region n).remaining
        queue := (s.region n).queue.map fun c => { c with wait := c.wait - 1 } }) ∧
    (∃ t, exec .usTick s = .next t ∧ t = { s with seqs := t.seqs } ∧
      ∀ d, t.seq d = { s.seq d with
        stepTimer := if (s.seq d).state = .waitReady ∨ (s.seq d).state = .suspending then
            (s.seq d).stepTimer.map (· - 1) else (s.seq d).stepTimer
        dwellTimer := if (s.seq d).state = .waitReady then (s.seq d).dwellTimer.map (· - 1) else (s.seq d).dwellTimer
        pollTimer := (s.seq d).pollTimer.map (· - 1)
        suspendTimer := (s.seq d).suspendTimer.map (· - 1)
        recoveryTimer := (s.seq d).recoveryTimer.map (· - 1) })) ∧
  (∀ (s : State) (n : RegionId) (p : Port) (c : ClaimRecord), s.resetn = true →
    (s.region n).queue.find? (fun x => x.port == p) = some c → c.wait = 0 →
    exec (.waitExpiry n p) s =
      .next ((s.setRegion n { s.region n with queue := (s.region n).queue.filter fun x => !(x.port == p) }).answer p
        c.slot .waitExpired))

/-- The lease expiry (R42, R43), due on a LEASED region with nothing remaining (log 9): the holder's QUEUED writes of the
region are answered LEASE_LOST, its ACTIVE erase range without a stop request gets LEASE_LOST, the LEASE_LOST notice is posted, and
the region becomes CLOSING while a write of the ex-holder is in progress, else the lease ends and is handed over. -/
def Obligations.LeaseExpiryIsALeaseLoss : Prop :=
  ∀ (s : State) (n : RegionId) (p : Port), s.resetn = true → (s.region n).state = .leased →
    (s.region n).remaining = 0 → (s.region n).holder = some p → (∀ q, (s.exch q).WellFormed) → s.WaitsReferred →
    ∃ t, exec (.leaseExpiry n) s = .next t ∧
      (∀ k, (s.entry p k).queuedWriteOn n = true →
        (t.entry p k).state = .answered ∧ (t.entry p k).result = some .leaseLost) ∧
      (∀ k, (s.entry p k).activeRangeOn n = true → (s.entry p k).stop = .none →
        t.entry p k = { s.entry p k with stop := .leaseLost }) ∧
      t.noticeList p = postTo ⟨n, .leaseLost, (s.region n).generation⟩ (s.noticeList p) ∧
      t.region n = (if s.writeInProgress p n then { (s.region n).leaseEnded with state := .closing }
                    else (s.region n).leaseOver s.settings) ∧
      (∀ m, m ≠ n → t.region m = s.region m) ∧
      (∀ q j, (s.entry q j).state ≠ .waiting →
        (q = p → (s.entry q j).queuedWriteOn n = false ∧ (s.entry q j).activeRangeOn n = false) →
        t.entry q j = s.entry q j) ∧
      t = { s with exchs := t.exchs, notices := t.notices, regions := t.regions }

/-- The lease-end bookkeeping and the hand-over (R37, R38): generation and CHANGED notices of a dirty lease, dirty no, the
RELEASE answered with the generation, and the region granted to the head of its queue, whose CLAIM is answered DONE, or
OPEN. The ex-holder may be that claimant out of CLOSING (R48). The other fields of the region, and every other region and
entry, stay. -/
def Obligations.LeaseEndBooksAndHandsOver : Prop :=
  ∀ (s : State) (n : RegionId) (ex : Port) (rel : Option Slot) (t : State) (g : Half),
    t = s.leaseEnd n ex rel →
    g = (if (s.region n).dirty then (s.region n).generation + 1#16 else (s.region n).generation) →
    t = { s with exchs := t.exchs, notices := t.notices, regions := t.regions } ∧
    (∀ m, m ≠ n → t.region m = s.region m) ∧
    (∀ q, t.noticeList q =
      if (s.region n).dirty = true ∧ (s.region n).watch.has q = true ∧ q ≠ ex then
        postTo ⟨n, .changed, g⟩ (s.noticeList q)
      else s.noticeList q) ∧
    ((s.region n).queue = [] → t.region n = { s.region n with
      state := .opened, holder := none, granted := none, remaining := 0, generation := g, dirty := false,
      release := none, outstanding := [] }) ∧
    (∀ c rest term, (s.region n).queue = c :: rest →
      term = grantedTerm s.settings (s.region n).defaultTerm c.term →
      t.region n = { s.region n with
        state := .leased, holder := some c.port, granted := some term, remaining := term, generation := g,
        dirty := false, queue := rest, release := none, outstanding := [] } ∧
      ((c.port = ex → rel ≠ some c.slot) → (s.entry c.port c.slot).state = .waiting →
        (s.entry c.port c.slot).isErase = false →
        t.entry c.port c.slot = { s.entry c.port c.slot with
          state := .answered, result := some .done, values := .claim term g })) ∧
    (∀ k, rel = some k → (s.entry ex k).state = .waiting → (s.entry ex k).isErase = false →
      t.entry ex k = { s.entry ex k with state := .answered, result := some .done, values := .generation g }) ∧
    (∀ q j, (q = ex → rel ≠ some j) →
      (∀ c, (s.region n).queue.head? = some c → c.port = q → c.slot ≠ j) → t.entry q j = s.entry q j)

/-! ### The host links (chapter 8) -/

/-- The fall of a select line enters LEAD and captures the link status byte (R154); its rise ends the transaction, discards
the bits of a byte not yet complete (R152), and in a PUT whose frame is not complete empties the receive buffer and sets
FRAME_ERROR (R158). A lead byte decides the transaction (R154, R192): 51h PUT, which waits for a frame with an empty buffer
(R156, R157), 54h TAKE, which chooses the head answer, else the head notice, else the empty frame, and fixes its bytes
(R159), 53h STATUS, which captures its two bytes (R161), 52h LINK RESET, which waits for the confirm byte (R165), and any
other byte leads to IGNORE. -/
def Obligations.LinkTransactionsBeginAndEnd : Prop :=
  (∀ (s : State) (p : Port), s.resetn = true →
    ((s.link p).selectLow = false →
      exec (.selectFall p) s = .next (s.setLink p { s.link p with
        selectLow := true, bits := [], phase := .lead, kind := none, count := 0, item := none,
        shiftOut := [s.linkStatus p] })) ∧
    ((s.link p).selectLow = true →
      ((s.link p).phase = .putHeader ∨ (s.link p).phase = .putBody ∨ (s.link p).phase = .putCheck) →
      exec (.selectRise p) s = .next (s.setLink p { s.link p with
        selectLow := false, bits := [], phase := .idle, kind := none, count := 0, item := none, shiftOut := [],
        rxBuffer := [], flags := { (s.link p).flags with frameError := true } })) ∧
    ((s.link p).selectLow = true →
      (s.link p).phase ≠ .putHeader → (s.link p).phase ≠ .putBody → (s.link p).phase ≠ .putCheck →
      exec (.selectRise p) s = .next (s.setLink p { s.link p with
        selectLow := false, bits := [], phase := .idle, kind := none, count := 0, item := none, shiftOut := [] }))) ∧
  (∀ (s : State) (p : Port), s.Shifts p .lead →
    exec (.put p) s = .next (s.leadCompletes p 0x51#8) ∧ exec (.linkReset p) s = .next (s.leadCompletes p 0x52#8) ∧
    exec (.status p) s = .next (s.leadCompletes p 0x53#8) ∧ exec (.take p) s = .next (s.leadCompletes p 0x54#8) ∧
    s.leadCompletes p 0x51#8 = s.setLink p { s.link p with
      phase := .putHeader, kind := some .put, count := 0, rxBuffer := [], crc := 0xFFFF#16, declared := 0#16,
      shiftOut := [] } ∧
    (∀ k rest, (s.exch p).answers = k :: rest →
      s.leadCompletes p 0x54#8 = s.setLink p { s.link p with
        phase := .takeOut, kind := some .take, count := 0, item := some (.answer k),
        shiftOut := answerFrame (s.entry p k) }) ∧
    (∀ r rest, (s.exch p).answers = [] → s.noticeList p = r :: rest →
      s.leadCompletes p 0x54#8 = s.setLink p { s.link p with
        phase := .takeOut, kind := some .take, count := 0, item := some (.notice r), shiftOut := noticeFrame r }) ∧
    ((s.exch p).answers = [] → s.noticeList p = [] →
      s.leadCompletes p 0x54#8 = s.setLink p { s.link p with
        phase := .takeOut, kind := some .take, count := 0, item := some .empty, shiftOut := emptyFrame }) ∧
    s.leadCompletes p 0x53#8 = s.setLink p { s.link p with
      phase := .statusOut, kind := some .status, count := 0, shiftOut := [s.secondStatus p, s.noticeCountByte p] } ∧
    s.leadCompletes p 0x52#8 = s.setLink p { s.link p with
      phase := .resetConfirm, kind := some .linkReset, count := 0, shiftOut := [] } ∧
    (∀ lead : Byte, lead ≠ 0x51#8 → lead ≠ 0x52#8 → lead ≠ 0x53#8 → lead ≠ 0x54#8 →
      exec (.unknownLead p lead) s = .next (s.leadCompletes p lead) ∧
      s.leadCompletes p lead = s.setLink p { s.link p with phase := .ignored, count := 0, shiftOut := [] }))

/-- The bits of the link status byte and of the two bytes of a STATUS (R155, R161, R192), and the attention line (R163, R164):
high while the part is out of reset and an answer waits, a notice waits or a link flag is set whose class is not masked. -/
def Obligations.StatusBytesAndAttentionFollowTheRecords : Prop :=
  (∀ (s : State) (p : Port), (s.exch p).answers.length ≤ 8 → (s.noticeList p).length ≤ 32 →
    (s.linkStatus p).toNat =
      (if (s.seq .d0).state = .faulted ∨ (s.seq .d1).state = .faulted then 128 else 0) +
      (if (s.link p).flags.overrun ∨ (s.link p).flags.frameError ∨ (s.link p).flags.tagClash then 64 else 0) +
      (if s.noticeList p ≠ [] then 32 else 0) + (if (s.exch p).answers ≠ [] then 16 else 0) +
      allSlots.countP (fun k => (s.entry p k).state == .vacant) ∧
    (s.secondStatus p).toNat =
      16 * (s.exch p).answers.length + (if s.admin = some p then 8 else 0) +
      (if (s.link p).flags.tagClash then 4 else 0) + (if (s.link p).flags.frameError then 2 else 0) +
      (if (s.link p).flags.overrun then 1 else 0) ∧
    (s.noticeCountByte p).toNat = (s.noticeList p).length) ∧
  (∀ (s : State) (p : Port), s.attention p = true ↔ s.resetn = true ∧
    (((s.exch p).answers ≠ [] ∧ (s.link p).mask.answers = false) ∨
     (s.noticeList p ≠ [] ∧ (s.link p).mask.notices = false) ∨
     (((s.link p).flags.overrun = true ∨ (s.link p).flags.frameError = true ∨ (s.link p).flags.tagClash = true) ∧
      (s.link p).mask.flags = false)))

/-- Eight bits complete a byte, most significant first, while the select line is low, and are ignored while it is high
(R152). A frame whose declared length is above 288, and one whose check bytes do not match, are discarded: FRAME_ERROR is
set, the buffer is emptied, IGNORE is entered, and nothing outside the link record changes (R158). A frame with its own
check bytes is taken by the receiver, whatever its parameters (R156, R157). -/
def Obligations.ReceiverDiscardsBadFrames : Prop :=
  (∀ (l : Link) (b7 b6 b5 b4 b3 b2 b1 b0 : Bool), l.bits = [] →
    (l.selectLow = true → l.shiftIn [b7, b6, b5, b4, b3, b2, b1] = ({ l with bits := [b7, b6, b5, b4, b3, b2, b1] }, []) ∧
      l.shiftIn [b7, b6, b5, b4, b3, b2, b1, b0] = (l, [BitVec.ofNat 8 (128 * b7.toNat + 64 * b6.toNat +
        32 * b5.toNat + 16 * b4.toNat + 8 * b3.toNat + 4 * b2.toNat + 2 * b1.toNat + b0.toNat)])) ∧
    (l.selectLow = false → l.shiftIn [b7, b6, b5, b4, b3, b2, b1, b0] = (l, []))) ∧
  (∀ (s : State) (p : Port) (tag kind : Byte) (c : Instr), s.resetn = true → (s.link p).awaitsFrame = true →
    ((∃ declared : Half, 288 < declared.toNat ∧ c = .frameTooLong p tag kind declared) ∨
     (∃ params check, params.length ≤ 288 ∧ crc16 (frameBody tag kind params) ≠ check ∧
        c = .checkMismatch p tag kind params check)) →
    ∃ crc declared, exec c s = .next (s.setLink p { s.link p with
      phase := .ignored, count := 0, rxBuffer := [], crc := crc, declared := declared,
      flags := { (s.link p).flags with frameError := true } })) ∧
  (∀ (l : Link) (tag kind : Byte) (params : List Byte) (check : Half), l.awaitsFrame = true → params.length ≤ 288 →
    (check = crc16 (frameBody tag kind params) →
      l.receive (frameWith tag kind params check) = .taken (l.afterFrame tag kind params)) ∧
    (check ≠ crc16 (frameBody tag kind params) → ∃ m, l.receive (frameWith tag kind params check) = .discarded m))

/-- The tests of R138 on a frame that has passed the frame check, in their order. A request of one of the 21 kinds that
passes them takes its entry, which keeps tag, kind, request and admission number whatever its kind's own checks answer; a
frame that fails test 4 takes an entry, with its kind and parameters as received (R139), and is answered MALFORMED. That
such an entry has a region or device where the first parameter byte gives one, and no payload, is the model's choice
(log 25). -/
def Obligations.FrameTestsDecideAdmission : Prop :=
  (∀ (s : State) (c : Instr) (p : Port) (tag : Byte) (q : Request),
    requestOf c = some (p, tag, q) → s.Receives p q →
    ((tag = 0#8 ∨ (s.exch p).tagHeld tag = true) →
      exec c s = .next ((s.received p tag q).setLink p { (s.received p tag q).link p with
        flags := { (s.link p).flags with tagClash := true } })) ∧
    (tag ≠ 0#8 → (s.exch p).tagHeld tag = false → (s.exch p).vacantSlot = none →
      exec c s = .next ((s.received p tag q).setLink p { (s.received p tag q).link p with
        flags := { (s.link p).flags with overrun := true } })) ∧
    (∀ k, s.Admits p tag q k → ∃ t, exec c s = .next t ∧ (t.exch p).counter = (s.exch p).counter + 1#16 ∧
      (t.entry p k).state ≠ .vacant ∧ (t.entry p k).tag = some tag ∧ (t.entry p k).kind = some q.code ∧
      (t.entry p k).number = some (s.exch p).counter ∧ (t.entry p k).request = some q)) ∧
  (∀ (s : State) (p : Port) (tag kind : Byte) (params : List Byte), s.resetn = true → (s.link p).awaitsFrame = true →
    params.length ≤ 288 → acceptsFrame kind params.length = false →
    ((tag = 0#8 ∨ (s.exch p).tagHeld tag = true) →
      exec (.unknownKind p tag kind params) s = .next (s.setLink p { (s.link p).afterFrame tag kind params with
        flags := { (s.link p).flags with tagClash := true } })) ∧
    (tag ≠ 0#8 → (s.exch p).tagHeld tag = false → (s.exch p).vacantSlot = none →
      exec (.unknownKind p tag kind params) s = .next (s.setLink p { (s.link p).afterFrame tag kind params with
        flags := { (s.link p).flags with overrun := true } })) ∧
    (∀ k, tag ≠ 0#8 → (s.exch p).tagHeld tag = false → (s.exch p).vacantSlot = some k →
      exec (.unknownKind p tag kind params) s =
        .next (((s.setLink p ((s.link p).afterFrame tag kind params)).setExch p
          ((s.exch p).take k tag kind (s.deviceField (.unread kind params)) (regionField (.unread kind params))
            (some (.unread kind params)) [])).answer p k .malformed))) ∧
  (∀ (s : State) (kind b : Byte) (rest : List Byte),
    ((kind = 0x21#8 ∨ kind = 0x22#8 ∨ kind = 0x23#8) → regionField (.unread kind (b :: rest)) = regionOf b ∧
      s.deviceField (.unread kind (b :: rest)) = (regionOf b).bind fun n => (s.region n).device) ∧
    ((kind = 0x34#8 ∨ kind = 0x35#8) → regionField (.unread kind (b :: rest)) = none ∧
      s.deviceField (.unread kind (b :: rest)) = devOf b) ∧
    ((kind = 0x11#8 ∨ kind = 0x12#8 ∨ kind = 0x13#8 ∨ kind = 0x14#8 ∨ kind = 0x15#8 ∨ kind = 0x16#8 ∨ kind = 0x32#8 ∨
        kind = 0x33#8) → regionField (.unread kind (b :: rest)) = regionOf b ∧
      s.deviceField (.unread kind (b :: rest)) = none) ∧
    regionField (.unread kind []) = none ∧ s.deviceField (.unread kind []) = none)

/-- What taking an entry writes (R139), and what answering one does (R144): every other entry stays as it is. -/
def Obligations.TakingAndAnsweringAnEntry : Prop :=
  (∀ (s : State) (p : Port) (tag : Byte) (q : Request) (k : Slot), s.Admits p tag q k →
    let t := s.admitted p tag q k
    (s.entry p k).state = .vacant ∧ (∀ j, (s.entry p j).state = .vacant → k.val ≤ j.val) ∧
    (t.entry p k).tag = some tag ∧ (t.entry p k).kind = some q.code ∧
    (t.entry p k).number = some (s.exch p).counter ∧ (t.entry p k).request = some q ∧
    (t.entry p k).payload = payloadOf q ∧ (t.entry p k).progress = 0 ∧ (t.entry p k).stop = .none ∧
    (t.entry p k).result = none ∧
    (t.exch p).counter = (s.exch p).counter + 1#16 ∧ (t.exch p).order = (s.exch p).order ++ [k] ∧
    (t.exch p).answers = (s.exch p).answers ∧ (∀ j, j ≠ k → t.entry p j = s.entry p j)) ∧
  (∀ (s : State) (p : Port) (k : Slot) (r : Result) (v : Values) (b : Option (List Byte)),
    ((s.entry p k).state = .queued ∨ (s.entry p k).state = .waiting ∨ (s.entry p k).state = .active →
      ((s.answer p k r v b).exch p).answers = (s.exch p).answers ++ [k] ∧
      (s.answer p k r v b).entry p k = { s.entry p k with
        state := .answered, result := some r, payload := b.getD (s.entry p k).payload,
        values := if (s.entry p k).isErase = true ∧ r ≠ .malformed then .progress (s.entry p k).progress else v }) ∧
    ((s.entry p k).state = .vacant ∨ (s.entry p k).state = .answered ∨ (s.entry p k).state = .draining →
      s.answer p k r v b = s) ∧
    (∀ q j, (q, j) ≠ (p, k) → (s.answer p k r v b).entry q j = s.entry q j))

/-- The delivery of the item of a TAKE (R145, R159, R160): an answer leaves the Answer List and the admission order and its
entry takes the VACANT column; a notice record leaves the list if it still is what the frame carried; the empty frame
changes nothing. The bytes of the frame count as completed (R153). The second status byte of a STATUS clears the three link
flags (R161). -/
def Obligations.DeliveryAndStatusTakeEffect : Prop :=
  (∀ (s : State) (p : Port) (l : Link), s.Shifts p .takeOut →
    l = { s.link p with
      item := none, count := (s.link p).count + (s.link p).shiftOut.length, shiftOut := [] } →
    (∀ k, (s.link p).item = some (.answer k) → ∃ t, exec (.takeDelivery p) s = .next t ∧
      t.entry p k = Entry.vacant ∧ (t.exch p).answers = (s.exch p).answers.erase k ∧
      (t.exch p).order = (s.exch p).order.erase k ∧ (t.exch p).counter = (s.exch p).counter ∧
      (∀ j, j ≠ k → t.entry p j = s.entry p j) ∧ t = (s.setLink p l).setExch p (t.exch p)) ∧
    (∀ r, (s.link p).item = some (.notice r) → exec (.takeDelivery p) s =
      .next ((s.setLink p l).setNotices p ((s.noticeList p).erase r))) ∧
    ((s.link p).item = some .empty → exec (.takeDelivery p) s = .next (s.setLink p l))) ∧
  (∀ (s : State) (p : Port) (b c : Byte), s.Shifts p .statusOut →
    (s.link p).shiftOut = [b, c] → exec (.statusFlagsClear p) s =
      .next (s.setLink p { s.link p with
        flags := ⟨false, false, false⟩, count := (s.link p).count + 1, shiftOut := [c] }))

/-- A confirm byte other than 6Dh does nothing (R165); 6Dh performs the port reset at the link, the Notice Unit and the
Exchange (R150, R166, R167). -/
def Obligations.PortResetAtLinkAndExchange : Prop :=
  ∀ (s : State) (p : Port), s.Shifts p .resetConfirm →
    (∀ b : Byte, b ≠ 0x6D#8 → exec (.linkResetConfirm p b) s =
      .next (s.setLink p { s.link p with phase := .ignored, count := 0 })) ∧
    ∃ t, exec (.linkResetConfirm p 0x6D#8) s = .next t ∧
      t.link p = { s.link p with
        phase := .ignored, count := 0, flags := ⟨false, false, false⟩, mask := ⟨false, false, false⟩ } ∧
      (∀ q, q ≠ p → t.link q = s.link q) ∧ t.noticeList p = [] ∧
      (t.exch p).answers = [] ∧ (t.exch p).counter = 0#16 ∧
      (t.exch p).order = (s.exch p).order.filter (fun k =>
        (s.entry p k).state == .active || (s.entry p k).state == .draining) ∧
      (∀ k, (s.entry p k).state = .draining → t.entry p k = s.entry p k) ∧
      (∀ k, (s.entry p k).state = .active → t.entry p k = { s.entry p k with
        state := .draining,
        stop := if (s.entry p k).isErase = true ∧ (s.entry p k).stop = .none then .portReset
                else (s.entry p k).stop }) ∧
      (∀ k, (s.entry p k).state ≠ .active → (s.entry p k).state ≠ .draining → t.entry p k = Entry.vacant) ∧
      t = { s with links := t.links, exchs := t.exchs, notices := t.notices, regions := t.regions, seqs := t.seqs }

/-- The port reset at the Region Table and the sequencers (R10, R45, R46, R143, R168): claims, watches and a pending retire
of the port go, and each lease of the port ends, in CLOSING while a write of the port drains. -/
def Obligations.PortResetAtTheRegionTable : Prop :=
  ∀ (s : State) (p : Port), s.Shifts p .resetConfirm →
    ∃ t, exec (.linkResetConfirm p 0x6D#8) s = .next t ∧
      (∀ n, (s.region n).holder ≠ some p → t.region n = (s.region n).portReset p) ∧
      (∀ n, (s.region n).holder = some p → t.region n =
        if s.writeInProgress p n then { ((s.region n).portReset p).leaseEnded with state := .closing }
        else ((s.region n).portReset p).leaseOver s.settings) ∧
      (∀ n, (t.region n).holder ≠ some p ∧ (t.region n).watch.has p = false ∧ ∀ c ∈ (t.region n).queue, c.port ≠ p) ∧
      (∀ d, t.seq d = { s.seq d with
        waitingRequest := match (s.seq d).waitingRequest with
          | none => none
          | some e => if e.port = p then none else some e })

/-! ### Requests to the Region Table (chapters 1, 2 and 9) -/

/-- A region number of 32 or more is answered as a FREE region by every request that names a region (R2): NO_REGION, and
NOT_HOLDER by RENEW and RELEASE. -/
def Obligations.NumbersBeyondTheTableAreFree : Prop :=
  ∀ (s : State) (p : Port) (tag b : Byte) (k : Slot) (q : Request) (c : Instr),
    (∀ n, regionOf b = some n → (s.region n).state = .free) →
    requestOf c = some (p, tag, q) → s.Admits p tag q k →
    ((q = .findNumber b ∨ q = .watch b ∨ q = .unwatch b ∨ (∃ x y, q = .claim b x y) ∨
        (∃ o l e, q = .read b o l e ∧ epochOf e ≠ none) ∨
        (∃ o f e d, q = .program b o f e d ∧ verifyOf f ≠ none ∧ epochOf e ≠ none) ∨
        (∃ x y e, q = .erase b x y e ∧ epochOf e ≠ none) ∨
        (s.admin = some p ∧ (q = .retire b ∨
          ∃ x y, q = .setRights b x y ∧ rightsOf x ≠ none ∧ rightsOf y ≠ none))) →
      exec c s = .next ((s.admitted p tag q k).answer p k .noRegion)) ∧
    (((∃ x, q = .renew b x) ∨ q = .release b) →
      exec c s = .next ((s.admitted p tag q k).answer p k .notHolder))

/-- A CLAIM that passes the checks of R29 on an OPEN region is granted in its admission action (R30), for the granted term of
R27: the requested term, or the region's default term, or DEFAULT TERM, capped at MAX TERM. -/
def Obligations.ClaimIsGrantedOnAnOpenRegion : Prop :=
  (∀ (s : State) (p : Port) (tag b : Byte) (term wait : Half) (k : Slot) (n : RegionId) (granted : Nat),
    s.Admits p tag (.claim b term wait) k → regionOf b = some n → (s.region n).state = .opened →
    (s.region n).writeRights.has p = true → (s.region n).WellFormed → s.leaseCount p < 4 →
    granted = grantedTerm s.settings (s.region n).defaultTerm term.toNat →
    (s.region n).queue = [] ∧
    exec (.claim p tag b term wait) s =
      .next (((s.admitted p tag (.claim b term wait) k).setRegion n { s.region n with
        state := .leased, holder := some p, granted := some granted, remaining := granted }).answer p k .done
          (.claim granted (s.region n).generation))) ∧
  (∀ (x : Settings) (default requested : Nat),
    (requested ≠ 0 → grantedTerm x default requested = min requested x.maxTerm) ∧
    (requested = 0 → default ≠ 0 → grantedTerm x default requested = min default x.maxTerm) ∧
    (requested = 0 → default = 0 → grantedTerm x default requested = min x.defaultTerm x.maxTerm) ∧
    (x.inRange → requested ≤ 65535 → default ≤ 65535 →
      1 ≤ grantedTerm x default requested ∧ grantedTerm x default requested ≤ 65535))

/-- A CLAIM that passes the checks of R29 on a LEASED, RELEASING or CLOSING region is HELD, or it waits at the tail of the
claim queue (R31). The refusals of CLAIM stand in the order of R29; NO_REGION, the first, is in
NumbersBeyondTheTableAreFree, and the last branch of the chain says nothing. -/
def Obligations.ClaimWaitsOrIsRefused : Prop :=
  (∀ (s : State) (p : Port) (tag b : Byte) (term wait : Half) (k : Slot) (n : RegionId),
    s.Admits p tag (.claim b term wait) k → regionOf b = some n →
    ((s.region n).state = .leased ∨ (s.region n).state = .releasing ∨ (s.region n).state = .closing) →
    (s.region n).writeRights.has p = true → (s.region n).holder ≠ some p →
    (∀ c ∈ (s.region n).queue, c.port ≠ p) → s.leaseCount p < 4 →
    ((wait = 0#16 ∨ 2 ≤ (s.region n).queue.length) →
      exec (.claim p tag b term wait) s = .next ((s.admitted p tag (.claim b term wait) k).answer p k .held)) ∧
    (wait ≠ 0#16 → (s.region n).queue.length < 2 →
      exec (.claim p tag b term wait) s =
        .next ((s.admitted p tag (.claim b term wait) k).setRegion n { s.region n with
          queue := (s.region n).queue ++ [{ port := p, term := term.toNat, wait := wait.toNat, slot := k }] }))) ∧
  (∀ (s : State) (p : Port) (tag b : Byte) (term wait : Half) (k : Slot) (n : RegionId),
    s.Admits p tag (.claim b term wait) k → regionOf b = some n → (s.region n).state ≠ .free →
    exec (.claim p tag b term wait) s =
      if (s.region n).state = .retiring then .next ((s.admitted p tag (.claim b term wait) k).answer p k .retired)
      else if (s.region n).writeRights.has p = false then
        .next ((s.admitted p tag (.claim b term wait) k).answer p k .noRight)
      else if (s.region n).holder = some p then
        .next ((s.admitted p tag (.claim b term wait) k).answer p k .alreadyHolder)
      else if (s.region n).queue.any (fun c => c.port == p) = true then
        .next ((s.admitted p tag (.claim b term wait) k).answer p k .alreadyWaiting)
      else if 4 ≤ s.leaseCount p then .next ((s.admitted p tag (.claim b term wait) k).answer p k .leaseLimit)
      else exec (.claim p tag b term wait) s)

/-- RENEW by the holder of a LEASED region sets a fresh granted term and nothing else of the lease; in every other case it
is answered NOT_HOLDER and nothing changes (R35). -/
def Obligations.RenewSetsAFreshTerm : Prop :=
  ∀ (s : State) (p : Port) (tag b : Byte) (term : Half) (k : Slot), s.Admits p tag (.renew b term) k →
    (∀ n, regionOf b = some n → (s.region n).state = .leased → (s.region n).holder = some p →
      exec (.renew p tag b term) s =
        .next (((s.admitted p tag (.renew b term) k).setRegion n { s.region n with
          granted := some (grantedTerm s.settings (s.region n).defaultTerm term.toNat),
          remaining := grantedTerm s.settings (s.region n).defaultTerm term.toNat }).answer p k .done
            (.term (grantedTerm s.settings (s.region n).defaultTerm term.toNat)))) ∧
    ((∀ n, regionOf b = some n → (s.region n).state ≠ .leased ∨ (s.region n).holder ≠ some p) →
      exec (.renew p tag b term) s = .next ((s.admitted p tag (.renew b term) k).answer p k .notHolder))

/-- RELEASE by the holder of a LEASED region (R39): with nothing outstanding the lease ends at once, else the region becomes
RELEASING with the QUEUED and ACTIVE entries of the port that name it; in every other case it is answered NOT_HOLDER. -/
def Obligations.ReleaseEndsOrFreezesTheLease : Prop :=
  ∀ (s : State) (p : Port) (tag b : Byte) (k : Slot), s.Admits p tag (.release b) k →
    (∀ n out, regionOf b = some n → (s.region n).state = .leased → (s.region n).holder = some p →
      out = (s.exch p).order.filter (fun j =>
        ((s.entry p j).state == .queued || (s.entry p j).state == .active) && (s.entry p j).region == some n) →
      (out = [] → exec (.release p tag b) s = .next ((s.admitted p tag (.release b) k).leaseEnd n p (some k))) ∧
      (out ≠ [] → exec (.release p tag b) s =
        .next ((s.admitted p tag (.release b) k).setRegion n { s.region n with
          state := .releasing, release := some k, outstanding := out }))) ∧
    ((∀ n, regionOf b = some n → (s.region n).state ≠ .leased ∨ (s.region n).holder ≠ some p) →
      exec (.release p tag b) s = .next ((s.admitted p tag (.release b) k).answer p k .notHolder))

/-- An entry that leaves QUEUED and ACTIVE leaves the outstanding set of its port's RELEASE, and the last one to leave ends
the lease (R40). The end of a write closes CLOSING (R48), and the last end frees a RETIRING region (R22). -/
def Obligations.OperationEndsReachTheRegion : Prop :=
  ∀ (s : State) (p : Port) (k : Slot) (n : RegionId) (write : Bool),
    ((s.region n).state = .releasing → (s.region n).holder = some p → k ∈ (s.region n).outstanding →
      (s.region n).outstanding.erase k ≠ [] →
      s.operationEnded p k n write = s.setRegion n { s.region n with
        outstanding := (s.region n).outstanding.erase k }) ∧
    ((s.region n).state = .releasing → (s.region n).holder = some p → (s.region n).outstanding = [k] →
      s.operationEnded p k n write = s.leaseEnd n p (s.region n).release) ∧
    ((s.region n).state = .closing → write = true → s.operationEnded p k n write = s.leaseEnd n p none) ∧
    ((s.region n).state = .closing → write = false → s.operationEnded p k n write = s) ∧
    ((s.region n).state = .retiring → s.inProgress n = true → s.operationEnded p k n write = s) ∧
    ((s.region n).state = .retiring → s.inProgress n = false →
      ((s.operationEnded p k n write).region n = Region.free ∧
       (s.operationEnded p k n write).epoch = s.epoch + 1#16 ∧
       ∀ e, (s.region n).pendingRetire = some e → (s.entry e.port e.slot).state = .waiting →
         (s.entry e.port e.slot).isErase = false →
         (s.operationEnded p k n write).entry e.port e.slot = { s.entry e.port e.slot with
           state := .answered, result := some .done, values := .epoch (s.epoch + 1#16) })) ∧
    ((s.region n).state = .free ∨ (s.region n).state = .opened ∨ (s.region n).state = .leased →
      s.operationEnded p k n write = s)

/-- WATCH and UNWATCH (R172, R173): the port joins or leaves the watch set; WATCH is refused in the order of R172, UNWATCH
for a FREE region alone. No Notice List changes. -/
def Obligations.WatchAndUnwatchChangeTheWatchSet : Prop :=
  ∀ (s : State) (p : Port) (tag b : Byte) (k : Slot),
    (∀ n, regionOf b = some n → (s.region n).state ≠ .free → s.Admits p tag (.watch b) k →
      exec (.watch p tag b) s =
        if (s.region n).state = .retiring then .next ((s.admitted p tag (.watch b) k).answer p k .retired)
        else if (s.region n).readRights.has p = false then
          .next ((s.admitted p tag (.watch b) k).answer p k .noRight)
        else .next (((s.admitted p tag (.watch b) k).setRegion n { s.region n with
          watch := (s.region n).watch.insert p }).answer p k .done (.watch (s.region n).generation s.epoch))) ∧
    (∀ n, regionOf b = some n → (s.region n).state ≠ .free → s.Admits p tag (.unwatch b) k →
      exec (.unwatch p tag b) s =
        .next (((s.admitted p tag (.unwatch b) k).setRegion n { s.region n with
          watch := (s.region n).watch.erase p }).answer p k .done)) ∧
    ((∀ n, regionOf b = some n → (s.region n).state = .free) →
      (s.Admits p tag (.watch b) k →
        exec (.watch p tag b) s = .next ((s.admitted p tag (.watch b) k).answer p k .noRegion)) ∧
      (s.Admits p tag (.unwatch b) k →
        exec (.unwatch p tag b) s = .next ((s.admitted p tag (.unwatch b) k).answer p k .noRegion)))

/-! ### Frames and the data output (chapters 8 and 11) -/

/-- The bits that the data output gives at the coming rising edges, most significant first, 0 past the last byte (R152, R192);
it is driven while the select line is low and released while it is high and while RESETN is low (R152, R153, R189; that it
is driven to 0 with the line low in IDLE is the model's choice, log 24). The frames that a TAKE sends: header, values and
check bytes of an answer frame, the notice frame and the empty frame (R159, R191), with the result and notice codes and the
value bytes of each row (R191). -/
def Obligations.TakeFramesAndDataOutputCarryTheirBytes : Prop :=
  ((∀ (s : State) (p : Port),
    (s.resetn = true → (s.link p).selectLow = true → s.dataOut p = .drive ((s.link p).outBit 0)) ∧
    (s.resetn = false ∨ (s.link p).selectLow = false → s.dataOut p = .released)) ∧
  (∀ (l : Link) (edge j i : Nat), l.bits.length + edge = 8 * j + i → i < 8 →
    l.outBit edge = (l.shiftOut.getD j 0#8).getLsbD (7 - i))) ∧
  ((∀ (e : Entry) (tag kind : Byte) (r : Result) (number : Half) (v body : List Byte), e.tag = some tag →
    e.kind = some kind → e.result = some r → e.number = some number → v = e.values.wire e.payload →
    body = [tag, kind, r.code, number.extractLsb' 8 8, number.extractLsb' 0 8, BitVec.ofNat 8 (v.length / 256),
      BitVec.ofNat 8 v.length] ++ v → v.length < 65536 →
    answerFrame e = body ++ [(crc16 body).extractLsb' 8 8, (crc16 body).extractLsb' 0 8]) ∧
  (∀ (n : RegionId) (kind : NoticeKind) (g : Half) (body : List Byte),
    body = [0x00#8, 0x80#8, 0x00#8, 0x00#8, 0x00#8, 0x00#8, 0x04#8, BitVec.ofNat 8 n.val, kind.code,
      g.extractLsb' 8 8, g.extractLsb' 0 8] →
    noticeFrame ⟨n, kind, g⟩ = body ++ [(crc16 body).extractLsb' 8 8, (crc16 body).extractLsb' 0 8]) ∧
  emptyFrame = [0x00#8, 0x00#8, 0x00#8, 0x00#8, 0x00#8, 0x00#8, 0x00#8, 0xF1#8, 0xCE#8]) ∧
  ([NoticeKind.changed, .leaseLost, .retired].map NoticeKind.code = [0x01#8, 0x02#8, 0x03#8] ∧
  [Result.done, .cancelled, .tooLate, .unknownTag, .malformed, .notAdmin, .noRegion, .noRight, .notHolder, .held,
    .alreadyHolder, .alreadyWaiting, .leaseLimit, .waitExpired, .leaseLost, .retired, .stale, .badRange, .tableFull,
    .overlap, .labelTaken, .busy, .badSetting, .deviceAbsent, .deviceFault, .deviceTimeout, .programFail, .eraseFail,
    .verifyMismatch, .writeEnableFail].map Result.code = (List.range 0x1E).map fun i => BitVec.ofNat 8 i) ∧
  (∀ (b : List Byte) (g e : Half) (o : Word) (i : DeviceId) (n t c : Nat) (r : RegionId) (m : Byte),
    Values.wire .none b = [] ∧
    (∀ u, Values.wire (.read g u) b = halfBytes g ++ [if u then 0x01#8 else 0x00#8] ++ b) ∧
    Values.wire (.mismatch o c) b = wordBytes o ++ halfBytes (BitVec.ofNat 16 c) ∧
    Values.wire (.progress n) b = wordBytes (BitVec.ofNat 32 n) ∧
    Values.wire (.claim t g) b = halfBytes (BitVec.ofNat 16 t) ++ halfBytes g ∧
    Values.wire (.term t) b = halfBytes (BitVec.ofNat 16 t) ∧ Values.wire (.generation g) b = halfBytes g ∧
    Values.wire (.watch g e) b = halfBytes g ++ halfBytes e ∧ Values.wire (.lookup e) b = b ++ halfBytes e ∧
    Values.wire (.define r e) b = BitVec.ofNat 8 r.val :: halfBytes e ∧ Values.wire (.epoch e) b = halfBytes e ∧
    Values.wire (.probed i) b = [i.b0, i.b1, i.b2] ∧
    Values.wire (.absent i .noResponse) b = [i.b0, i.b1, i.b2, 0x01#8] ∧
    Values.wire (.absent i .idMismatch) b = [i.b0, i.b1, i.b2, 0x02#8] ∧ Values.wire .record b = b ∧
    Values.wire (.configure m n c) b = m :: (halfBytes (BitVec.ofNat 16 n) ++ halfBytes (BitVec.ofNat 16 c)) ∧
    Values.wire (.mask m) b = [m] ∧ halfBytes g = [g.extractLsb' 8 8, g.extractLsb' 0 8] ∧
    wordBytes o = [o.extractLsb' 24 8, o.extractLsb' 16 8, o.extractLsb' 8 8, o.extractLsb' 0 8])

/-! ### Lookups (chapter 1) -/

/-- FIND_NUMBER is answered with the summary of the region, 33 bytes, and the Table Epoch in every state but FREE, and
NO_REGION for a FREE slot or a number in 32..255 (R14). FIND_ADDRESS (R15) finds the region of the device whose range holds
the sector of the byte address, and FIND_LABEL (R16) the region with the label carried; where several could match, the
lowest number is the model's choice (log 19), and by R3 and R4 there is only one. -/
def Obligations.LookupsFindTheirRegion : Prop :=
  (∀ (s : State) (p : Port) (tag b : Byte) (k : Slot), s.Admits p tag (.findNumber b) k →
    (∀ n, regionOf b = some n → (s.region n).state ≠ .free →
      exec (.findNumber p tag b) s = .next ((s.admitted p tag (.findNumber b) k).answer p k .done (.lookup s.epoch)
        (some (regionSummary n (s.region n)))) ∧
      (regionSummary n (s.region n))[1]? = some (s.region n).state.code ∧
      (regionSummary n (s.region n)).length = 33) ∧
    ((∀ n, regionOf b = some n → (s.region n).state = .free) →
      exec (.findNumber p tag b) s = .next ((s.admitted p tag (.findNumber b) k).answer p k .noRegion))) ∧
  (∀ (s : State) (p : Port) (tag device : Byte) (address : Word) (k : Slot),
    s.Admits p tag (.findAddress device address) k →
    (devOf device = none → exec (.findAddress p tag device address) s =
      .next ((s.admitted p tag (.findAddress device address) k).answer p k .malformed)) ∧
    (∀ d, devOf device = some d →
      (∀ n, (s.region n).state ≠ .free → (s.region n).device = some d →
        address.toNat / 4096 < (s.region n).baseSector ∨
        (s.region n).baseSector + (s.region n).sectorCount ≤ address.toNat / 4096) →
      exec (.findAddress p tag device address) s =
        .next ((s.admitted p tag (.findAddress device address) k).answer p k .noRegion)) ∧
    (∀ d n, devOf device = some d → (s.region n).state ≠ .free → (s.region n).device = some d →
      (s.region n).baseSector ≤ address.toNat / 4096 →
      address.toNat / 4096 < (s.region n).baseSector + (s.region n).sectorCount →
      (∀ m, m < n → (s.region m).covers d (address.toNat / 4096) = false) →
      exec (.findAddress p tag device address) s =
        .next ((s.admitted p tag (.findAddress device address) k).answer p k .done (.lookup s.epoch)
          (some (regionSummary n (s.region n)))))) ∧
  (∀ (s : State) (p : Port) (tag : Byte) (l : LabelField) (k : Slot), s.Admits p tag (.findLabel l) k →
    (8 < l.length.toNat → exec (.findLabel p tag l) s =
      .next ((s.admitted p tag (.findLabel l) k).answer p k .malformed)) ∧
    (l.length.toNat ≤ 8 →
      (l.length = 0#8 ∨ ∀ n, (s.region n).state ≠ .free →
        (s.region n).label ≠ l.bytes.toList.take l.length.toNat) →
      exec (.findLabel p tag l) s = .next ((s.admitted p tag (.findLabel l) k).answer p k .noRegion)) ∧
    (∀ n, l.length.toNat ≤ 8 → l.length ≠ 0#8 → (s.region n).state ≠ .free →
      (s.region n).label = l.bytes.toList.take l.length.toNat →
      (∀ m, m < n → (s.region m).carries (l.bytes.toList.take l.length.toNat) = false) →
      exec (.findLabel p tag l) s =
        .next ((s.admitted p tag (.findLabel l) k).answer p k .done (.lookup s.epoch)
          (some (regionSummary n (s.region n))))))

/-! ### Administrator requests (chapters 1, 6 and 10) -/

/-- The six administrator requests from another port, or with no administrator, are answered NOT_ADMIN and change nothing
(R187). -/
def Obligations.OnlyTheAdministratorIsObeyed : Prop :=
  ∀ (s : State) (p : Port) (tag : Byte) (q : Request) (k : Slot) (c : Instr),
    requestOf c = some (p, tag, q) → s.Admits p tag q k → s.admin ≠ some p →
    (q.code = 0x31#8 ∨ q.code = 0x32#8 ∨ q.code = 0x33#8 ∨ q.code = 0x34#8 ∨ q.code = 0x35#8 ∨ q.code = 0x36#8) →
    exec c s = .next ((s.admitted p tag q k).answer p k .notAdmin)

/-- An accepted DEFINE (R17, R19) writes the lowest-numbered FREE slot and counts the Table Epoch up. The refusals of DEFINE
stand in the order of R17, after NOT_ADMIN and MALFORMED (R12); the last branch of the chain says nothing. -/
def Obligations.DefineIsCheckedAndWrites : Prop :=
  (∀ (s : State) (p : Port) (tag device rr wr : Byte) (base term : Half) (count : Word) (label : LabelField) (k : Slot)
    (d : Dev) (l : List Byte) (r w : PortSet) (n : RegionId) (q : Request),
    q = .define device base count label rr wr term → s.Admits p tag q k → s.admin = some p →
    devOf device = some d → labelOf label = some l → rightsOf rr = some r → rightsOf wr = some w →
    (s.seq d).state ≠ .absent → 1 ≤ count.toNat → base.toNat + count.toNat ≤ 2 ^ ((s.profile d).capacityExp - 12) →
    count.toNat ≤ 65536 →
    (∀ m, (s.region m).state ≠ .free → (s.region m).device = some d →
      base.toNat + count.toNat ≤ (s.region m).baseSector ∨
      (s.region m).baseSector + (s.region m).sectorCount ≤ base.toNat) →
    (l = [] ∨ ∀ m, (s.region m).state ≠ .free → (s.region m).label ≠ l) →
    (s.region n).state = .free → (∀ m, m < n → (s.region m).state ≠ .free) →
    exec (.define p tag device base count label rr wr term) s =
      .next (({ (s.admitted p tag q k).setRegion n { Region.free with
          state := .opened, device := some d, baseSector := base.toNat, sectorCount := count.toNat, label := l,
          readRights := r, writeRights := w, defaultTerm := term.toNat } with
        epoch := s.epoch + 1#16 }).answer p k .done (.define n (s.epoch + 1#16)))) ∧
  (∀ (s : State) (p : Port) (tag device rr wr : Byte) (base term : Half) (count : Word) (label : LabelField) (k : Slot)
    (q : Request), q = .define device base count label rr wr term → s.Admits p tag q k → s.admin = some p →
    ((devOf device = none ∨ 8 < label.length.toNat ∨ rightsOf rr = none ∨ rightsOf wr = none) →
      exec (.define p tag device base count label rr wr term) s =
        .next ((s.admitted p tag q k).answer p k .malformed)) ∧
    (∀ d, devOf device = some d → label.length.toNat ≤ 8 → rightsOf rr ≠ none → rightsOf wr ≠ none →
      exec (.define p tag device base count label rr wr term) s =
        if (s.seq d).state = .absent then .next ((s.admitted p tag q k).answer p k .deviceAbsent)
        else if count.toNat = 0 ∨ 65536 < count.toNat ∨
            2 ^ ((s.profile d).capacityExp - 12) < base.toNat + count.toNat then
          .next ((s.admitted p tag q k).answer p k .badRange)
        else if ∃ m, (s.region m).state ≠ .free ∧ (s.region m).device = some d ∧
            (s.region m).baseSector < base.toNat + count.toNat ∧
            base.toNat < (s.region m).baseSector + (s.region m).sectorCount then
          .next ((s.admitted p tag q k).answer p k .overlap)
        else if ∃ m, (s.region m).carries (label.bytes.toList.take label.length.toNat) = true then
          .next ((s.admitted p tag q k).answer p k .labelTaken)
        else if ∀ m, (s.region m).state ≠ .free then .next ((s.admitted p tag q k).answer p k .tableFull)
        else exec (.define p tag device base count label rr wr term) s))

/-- An accepted RETIRE (R20 to R23): with no operation in progress on the region it becomes FREE and the RETIRE is answered
with the new Table Epoch; else it becomes RETIRING and the RETIRE waits. The other regions stay. -/
def Obligations.RetireFreesOrWaits : Prop :=
  ∀ (s : State) (p : Port) (tag b : Byte) (k : Slot) (n : RegionId), s.Admits p tag (.retire b) k →
    s.admin = some p → regionOf b = some n → (s.region n).state ≠ .free → (s.region n).state ≠ .retiring →
    s.WaitsReferred →
    ∃ t, exec (.retire p tag b) s = .next t ∧ (∀ m, m ≠ n → t.region m = s.region m) ∧
      (s.inProgress n = false → t.region n = Region.free ∧ t.epoch = s.epoch + 1#16 ∧
        (t.entry p k).state = .answered ∧ (t.entry p k).result = some .done ∧
        (t.entry p k).values = .epoch (s.epoch + 1#16)) ∧
      (s.inProgress n = true → t.epoch = s.epoch ∧ t.region n = { (s.region n).leaseEnded with
        state := .retiring, queue := [], watch := .empty, pendingRetire := some ⟨p, k⟩ }) ∧
      t = { s.received p tag (.retire b) with
        exchs := t.exchs, notices := t.notices, regions := t.regions, epoch := t.epoch }

/-- What a RETIRE does to the work on the region (R21): QUEUED entries of every port that name it, waiting claims and the
waiting RELEASE are answered RETIRED, ACTIVE erase ranges get the stop request, the ex-holder hears LEASE_LOST and then
every watcher RETIRED. -/
def Obligations.RetirementEndsTheWork : Prop :=
  ∀ (s : State) (p : Port) (tag b : Byte) (k : Slot) (n : RegionId), s.Admits p tag (.retire b) k →
    s.admin = some p → regionOf b = some n → (s.region n).state ≠ .free → (s.region n).state ≠ .retiring →
    (∀ q, (s.exch q).WellFormed) → s.WaitsReferred →
    ∃ t, exec (.retire p tag b) s = .next t ∧
      (∀ q j, (s.entry q j).state = .queued → (s.entry q j).region = some n →
        (t.entry q j).state = .answered ∧ (t.entry q j).result = some .retired) ∧
      (∀ c ∈ (s.region n).queue,
        (t.entry c.port c.slot).state = .answered ∧ (t.entry c.port c.slot).result = some .retired) ∧
      (∀ q j, (s.region n).holder = some q → (s.region n).release = some j →
        (t.entry q j).state = .answered ∧ (t.entry q j).result = some .retired) ∧
      (∀ q j, (s.entry q j).activeRangeOn n = true → (s.entry q j).stop = .none →
        t.entry q j = { s.entry q j with stop := .retired }) ∧
      (∀ q j, (q, j) ≠ (p, k) → (s.entry q j).state ≠ .waiting → (s.entry q j).region ≠ some n →
        t.entry q j = s.entry q j) ∧
      (∀ q, t.noticeList q =
        let l := if (s.region n).holder = some q then
            postTo ⟨n, .leaseLost, (s.region n).generation⟩ (s.noticeList q) else s.noticeList q
        if (s.region n).watch.has q = true then postTo ⟨n, .retired, (s.region n).generation⟩ l else l)

/-- An accepted SET_RIGHTS (R24): rights replaced and the Table Epoch counted up, claims without write right answered
NO_RIGHT, and a holder without it revoked as a lease loss (R42, R44): its QUEUED writes of the region and its WAITING RELEASE
are answered LEASE_LOST, its ACTIVE erase range without a stop request gets LEASE_LOST, the LEASE_LOST notice is posted to it,
and the region becomes CLOSING or is handed over. Without a revoke no notice is posted. -/
def Obligations.SetRightsReplacesAndRevokes : Prop :=
  ∀ (s : State) (p : Port) (tag b rr wr : Byte) (k : Slot) (n : RegionId) (r w : PortSet) (x : Region),
    s.Admits p tag (.setRights b rr wr) k → s.admin = some p → regionOf b = some n →
    (s.region n).state ≠ .free → (s.region n).state ≠ .retiring → rightsOf rr = some r → rightsOf wr = some w →
    (s.region n).WellFormed → s.WaitsReferred → (∀ q, (s.exch q).WellFormed) →
    x = { s.region n with
      readRights := r, writeRights := w, queue := (s.region n).queue.filter fun c => w.has c.port } →
    ∃ t, exec (.setRights p tag b rr wr) s = .next t ∧ t.epoch = s.epoch + 1#16 ∧
      (∀ m, m ≠ n → t.region m = s.region m) ∧
      ((∀ q, (s.region n).holder = some q → w.has q = true) →
        t.region n = x ∧ (∀ q, t.noticeList q = s.noticeList q) ∧
        (∀ q j, (q, j) ≠ (p, k) → (s.entry q j).state ≠ .waiting → t.entry q j = s.entry q j)) ∧
      (∀ q, (s.region n).holder = some q → w.has q = false →
        t.region n = (if s.writeInProgress q n then { x.leaseEnded with state := .closing }
                      else x.leaseOver s.settings) ∧
        (∀ j, (s.entry q j).queuedWriteOn n = true →
          (t.entry q j).state = .answered ∧ (t.entry q j).result = some .leaseLost) ∧
        (∀ j, (s.region n).release = some j →
          (t.entry q j).state = .answered ∧ (t.entry q j).result = some .leaseLost) ∧
        (∀ j, (s.entry q j).activeRangeOn n = true → (s.entry q j).stop = .none →
          t.entry q j = { s.entry q j with stop := .leaseLost }) ∧
        t.noticeList q = postTo ⟨n, .leaseLost, (s.region n).generation⟩ (s.noticeList q)) ∧
      (∀ c ∈ (s.region n).queue, w.has c.port = false →
        (t.entry c.port c.slot).state = .answered ∧ (t.entry c.port c.slot).result = some .noRight) ∧
      (t.entry p k).state = .answered ∧ (t.entry p k).result = some .done ∧
      (t.entry p k).values = .epoch (s.epoch + 1#16) ∧
      (∀ q j, (q, j) ≠ (p, k) → (s.entry q j).state ≠ .waiting → (s.entry q j).region ≠ some n →
        t.entry q j = s.entry q j) ∧
      t = { s.received p tag (.setRights b rr wr) with
        exchs := t.exchs, notices := t.notices, regions := t.regions, epoch := t.epoch }

/-- An accepted SET_PROFILE (R123, R124): the record is replaced, the device is PROBING, the entry waits, and the ID read is
requested with the new profile. The refusals of SET_PROFILE stand in the order of R123 after NOT_ADMIN, which is in
OnlyTheAdministratorIsObeyed; the last branch of the chain says nothing. An accepted RECOVER (R127, R128): the device is
RECOVERING, the entry waits, and the first reset opcode is requested, or the recovery delay starts at once where the
sequence is empty; for a device number other than 0 or 1 it is answered MALFORMED, and in other states BUSY. -/
def Obligations.SetProfileAndRecoverStart : Prop :=
  (∀ (s : State) (p : Port) (tag device : Byte) (record : ProfileRecord) (k : Slot) (d : Dev) (f : Profile),
    s.Admits p tag (.setProfile device record) k → s.admin = some p → devOf device = some d →
    parseProfile record = some f →
    ((s.seq d).state = .idle ∨ (s.seq d).state = .faulted ∨ (s.seq d).state = .absent) →
    (∀ n, (s.region n).device = some d → (s.region n).state = .free ∨ (s.region n).state = .opened) →
    (∀ n, (s.region n).device = some d → (s.region n).state ≠ .free →
      (s.region n).baseSector + (s.region n).sectorCount ≤ 2 ^ (f.capacityExp - 12)) →
    exec (.setProfile p tag device record) s =
      .next ((((s.admitted p tag (.setProfile device record) k).setProfile d f).setSeq d { s.seq d with
        state := .probing, absentReason := none, waitingRequest := some ⟨p, k⟩ }).place d (.idRead f.idOp))) ∧
  (∀ (s : State) (p : Port) (tag device : Byte) (record : ProfileRecord) (k : Slot)
    (answered : Result → Host.Outcome State Fault Refusal), s.Admits p tag (.setProfile device record) k →
    s.admin = some p →
    answered = (fun x => .next ((s.admitted p tag (.setProfile device record) k).answer p k x)) →
    ((devOf device = none ∨ parseProfile record = none) →
      exec (.setProfile p tag device record) s = answered .malformed) ∧
    (∀ d f, devOf device = some d → parseProfile record = some f → exec (.setProfile p tag device record) s =
      if (s.seq d).state ≠ .idle ∧ (s.seq d).state ≠ .faulted ∧ (s.seq d).state ≠ .absent then answered .busy
      else if ∃ n, (s.region n).device = some d ∧ ((s.region n).state = .leased ∨ (s.region n).state = .releasing ∨
          (s.region n).state = .closing ∨ (s.region n).state = .retiring) then answered .busy
      else if ∃ n, (s.region n).state ≠ .free ∧ (s.region n).device = some d ∧
          2 ^ (f.capacityExp - 12) < (s.region n).baseSector + (s.region n).sectorCount then answered .badRange
      else exec (.setProfile p tag device record) s)) ∧
  (∀ (s : State) (p : Port) (tag device : Byte) (k : Slot), s.Admits p tag (.recover device) k →
    s.admin = some p → devOf device = none →
    exec (.recover p tag device) s = .next ((s.admitted p tag (.recover device) k).answer p k .malformed)) ∧
  (∀ (s : State) (p : Port) (tag device : Byte) (k : Slot) (d : Dev),
    s.Admits p tag (.recover device) k → s.admin = some p → devOf device = some d →
    (∀ op rest, ((s.seq d).state = .faulted ∨ (s.seq d).state = .idle) → (s.profile d).resetOps = op :: rest →
      exec (.recover p tag device) s =
        .next (((s.admitted p tag (.recover device) k).setSeq d { s.seq d with
          state := .recovering, waitingRequest := some ⟨p, k⟩, resetsSent := 0,
          recoveryPhase := some .reset }).place d (opcodeOnly .reset op))) ∧
    (((s.seq d).state = .faulted ∨ (s.seq d).state = .idle) → (s.profile d).resetOps = [] →
      exec (.recover p tag device) s =
        .next ((s.admitted p tag (.recover device) k).setSeq d { s.seq d with
          state := .recovering, waitingRequest := some ⟨p, k⟩, resetsSent := 0,
          recoveryPhase := some .delay, recoveryTimer := some (s.profile d).recoveryDelay })) ∧
    ((s.seq d).state ≠ .faulted → (s.seq d).state ≠ .idle →
      exec (.recover p tag device) s = .next ((s.admitted p tag (.recover device) k).answer p k .busy)))

/-- CONFIGURE from the administrator gives one setting a value in its range and reports the value before (R184); it refuses
identifiers from 10 on and values outside the range, where RESUME DWELL takes multiples of 100 alone. The table of R181: MIN,
MAX, step and reset value of the ten settings, and no range for another identifier. -/
def Obligations.ConfigureSetsOneSetting : Prop :=
  (∀ (s : State) (p : Port) (tag id : Byte) (v : Half) (k : Slot), s.Admits p tag (.configure id v) k →
    (s.admin ≠ some p →
      exec (.configure p tag id v) s = .next ((s.admitted p tag (.configure id v) k).answer p k .notAdmin)) ∧
    (∀ before lo hi step, s.admin = some p → s.settings.value id.toNat = some before →
      settingRange id.toNat = some (lo, hi, step) → lo ≤ v.toNat → v.toNat ≤ hi → v.toNat % step = 0 → ∃ x : Settings,
        exec (.configure p tag id v) s = .next (({ s.admitted p tag (.configure id v) k with
          settings := x }).answer p k .done (.configure id v.toNat before)) ∧
        x.value id.toNat = some v.toNat ∧ ∀ j, j ≠ id.toNat → x.value j = s.settings.value j) ∧
    (s.admin = some p → (10 ≤ id.toNat ∨ ∀ lo hi step, settingRange id.toNat = some (lo, hi, step) →
        v.toNat < lo ∨ hi < v.toNat ∨ v.toNat % step ≠ 0) →
      exec (.configure p tag id v) s = .next ((s.admitted p tag (.configure id v) k).answer p k .badSetting))) ∧
  ((List.range 10).map (fun i => (settingRange i, Settings.initial.value i)) =
    [(some (100, 60000, 1), some 5000), (some (100, 65535, 1), some 60000), (some (5, 1000, 1), some 25),
     (some (1, 255, 1), some 4), (some (10, 5000, 1), some 600), (some (10, 1000, 1), some 200),
     (some (100, 25500, 100), some 500), (some (0, 15, 1), some 4), (some (1, 16, 1), some 8),
     (some (2, 32, 1), some 4)] ∧
   ∀ i, 10 ≤ i → settingRange i = none ∧ Settings.initial.value i = none)

/-! ### The pins of the flash bus (chapter 4) -/

/-- The pins of the flash bus (R97 to R99). Between transactions both chip selects are high, FCLK is low and the lanes are
FD0 low, FD1 released, FD2 and FD3 high. In a transaction the device's chip select alone is low; FCLK is low for the first
part of each cycle and high for its last ⌊d ÷ 2⌋ parts; command, address, dummy and data phase follow one another for the
cycles of their lanes; and the lanes carry each byte most significant bit first, or are released, as the table of R99 gives.
What the part samples: at the rising edge of FCLK in a cycle of a data phase in, and at no other moment, the levels that the
device gives on the lines of that phase (R98, R99); lines that carry bytes as R99 gives make those bytes (R101).
That FD0 carries the last bit sent on it in a data phase in of one lane is the model's reading of 'held at its last value'
(log 20), and that the gap passes before the cycles of the next transaction begin is how the model holds R97 (log 7). -/
def Obligations.FlashBusPinsFollowTheTransaction : Prop :=
  ((∀ b : Bus, (b.cur = none ∨ b.gap ≠ 0 ∨ ∃ t, b.cur = some t ∧ t.txn.cycles * t.divider ≤ t.elapsed) →
    (∀ d, b.chipSelect d = true) ∧ b.fclk = false ∧ b.phase = none ∧
    b.lanes = ⟨.drive false, .released, .drive true, .drive true⟩) ∧
  (∀ (b : Bus) (t : OnBus), b.gap = 0 → b.cur = some t → t.elapsed < t.txn.cycles * t.divider →
    (∀ d, b.chipSelect d = decide (d ≠ t.dev)) ∧
    b.fclk = decide (t.divider - t.divider / 2 ≤ t.elapsed % t.divider) ∧
    b.phase = t.txn.phaseAt (t.elapsed / t.divider) ∧ b.lanes = t.txn.lanesAt (t.elapsed / t.divider))) ∧
  (∀ (t : Transaction) (k cmd addr data : Nat), cmd = 8 / t.lanes.cmd.toNat →
    addr = t.addrBytes * (8 / t.lanes.addr.toNat) → data = (t.out.length + t.inCount) * (8 / t.lanes.data.toNat) →
    t.cycles = cmd + addr + t.dummy + data ∧
    (k < cmd → t.phaseAt k = some (.command, k)) ∧ (k < addr → t.phaseAt (cmd + k) = some (.address, k)) ∧
    (k < t.dummy → t.phaseAt (cmd + addr + k) = some (.dummy, k)) ∧
    (k < data → t.phaseAt (cmd + addr + t.dummy + k) = some (.data, k)) ∧ (t.cycles ≤ k → t.phaseAt k = none)) ∧
  (∀ (t : Transaction) (c k : Nat),
    (t.phaseAt c = some (.command, k) → t.lanesAt c = outLanes t.lanes.cmd [t.opcode] k) ∧
    (t.phaseAt c = some (.address, k) → t.addrBytes = 4 → t.lanesAt c = outLanes t.lanes.addr (wordBytes t.addr) k) ∧
    (t.phaseAt c = some (.address, k) → t.addrBytes = 3 →
      t.lanesAt c = outLanes t.lanes.addr ((wordBytes t.addr).drop 1) k) ∧
    (t.phaseAt c = some (.dummy, k) → t.lanesAt c =
      if t.lanes.data = .four then ⟨.released, .released, .released, .released⟩
      else ⟨.released, .released, .drive true, .drive true⟩) ∧
    (t.phaseAt c = some (.data, k) → t.inCount = 0 → t.lanesAt c = outLanes t.lanes.data t.out k) ∧
    (t.phaseAt c = some (.data, k) → t.inCount ≠ 0 →
      (t.lanes.data = .one →
        t.lanesAt c = ⟨.drive (((t.opcode :: t.addressWire).getLastD 0#8).getLsbD 0), .released, .drive true,
          .drive true⟩) ∧
      (t.lanes.data = .two → t.lanesAt c = ⟨.released, .released, .drive true, .drive true⟩) ∧
      (t.lanes.data = .four → t.lanesAt c = ⟨.released, .released, .released, .released⟩))) ∧
  (∀ (bytes : List Byte) (b : Byte) (j i : Nat), bytes[j]? = some b →
    (i < 8 → outLanes .one bytes (8 * j + i) =
      ⟨.drive (b.getLsbD (7 - i)), .released, .drive true, .drive true⟩) ∧
    (i < 4 → outLanes .two bytes (4 * j + i) =
      ⟨.drive (b.getLsbD (6 - 2 * i)), .drive (b.getLsbD (7 - 2 * i)), .drive true, .drive true⟩) ∧
    (i < 2 → outLanes .four bytes (2 * j + i) =
      ⟨.drive (b.getLsbD (4 - 4 * i)), .drive (b.getLsbD (5 - 4 * i)), .drive (b.getLsbD (6 - 4 * i)),
       .drive (b.getLsbD (7 - 4 * i))⟩)) ∧
  ((∀ (b : Bus) (x : LineLevels),
    (b.cur = none ∨ b.gap ≠ 0 ∨ ∃ t, b.cur = some t ∧ t.txn.cycles * t.divider ≤ t.elapsed) → b.sampled x = []) ∧
  (∀ (b : Bus) (x : LineLevels) (t : OnBus), b.gap = 0 → b.cur = some t → t.elapsed < t.txn.cycles * t.divider →
    (t.elapsed % t.divider ≠ t.divider - t.divider / 2 → b.sampled x = []) ∧
    (t.elapsed % t.divider = t.divider - t.divider / 2 →
      (∀ k, t.txn.phaseAt (t.elapsed / t.divider) = some (.data, k) → t.txn.inCount ≠ 0 →
        (t.txn.lanes.data = .one → b.sampled x = [x.fd1]) ∧
        (t.txn.lanes.data = .two → b.sampled x = [x.fd1, x.fd0]) ∧
        (t.txn.lanes.data = .four → b.sampled x = [x.fd3, x.fd2, x.fd1, x.fd0])) ∧
      ((t.txn.inCount = 0 ∨ ∀ k, t.txn.phaseAt (t.elapsed / t.divider) ≠ some (.data, k)) → b.sampled x = []))) ∧
  (∀ (t : Transaction) (bytes : List Byte) (x : Nat → LineLevels), t.inCount = bytes.length →
    (∀ (j : Nat) (b : Byte), bytes[j]? = some b →
      (t.lanes.data = .one → ∀ i, i < 8 → (x (8 * j + i)).fd1 = b.getLsbD (7 - i)) ∧
      (t.lanes.data = .two → ∀ i, i < 4 →
        (x (4 * j + i)).fd1 = b.getLsbD (7 - 2 * i) ∧ (x (4 * j + i)).fd0 = b.getLsbD (6 - 2 * i)) ∧
      (t.lanes.data = .four → ∀ i, i < 2 →
        (x (2 * j + i)).fd3 = b.getLsbD (7 - 4 * i) ∧ (x (2 * j + i)).fd2 = b.getLsbD (6 - 4 * i) ∧
        (x (2 * j + i)).fd1 = b.getLsbD (5 - 4 * i) ∧ (x (2 * j + i)).fd0 = b.getLsbD (4 - 4 * i))) →
    t.received x = bytes))

/-! ### Reports and the attention mask -/

/-- READ_SETTING from any port reports the value of an identifier 0..9 and the administrator selection for 10, and refuses
11..255 (R183); a CONFIGURE taken after it leaves its answer as it is. DEVICE_INFO reports state, absent reason, probed ID
and profile (R133), and SET_ATTENTION replaces the port's mask (R164); both refuse values outside their encoding. -/
def Obligations.ReportsAndSetAttention : Prop :=
  (∀ (s : State) (p : Port) (tag id : Byte) (k : Slot), s.Admits p tag (.readSetting id) k →
    (∀ v, s.settings.value id.toNat = some v →
      exec (.readSetting p tag id) s = .next ((s.admitted p tag (.readSetting id) k).answer p k .done .record
        (some (id :: halfBytes (BitVec.ofNat 16 v))))) ∧
    (id = 10#8 → exec (.readSetting p tag id) s =
      .next ((s.admitted p tag (.readSetting id) k).answer p k .done .record
        (some (id :: halfBytes (BitVec.ofNat 16 (adminCode s.admin)))))) ∧
    (11 ≤ id.toNat → exec (.readSetting p tag id) s =
      .next ((s.admitted p tag (.readSetting id) k).answer p k .badSetting)) ∧
    (∀ t u q tag' id' v', exec (.readSetting p tag id) s = .next t → exec (.configure q tag' id' v') t = .next u →
      u.entry p k = t.entry p k)) ∧
  (∀ (s : State) (p : Port) (tag b : Byte) (k : Slot),
    (∀ d, s.Admits p tag (.deviceInfo b) k → devOf b = some d →
      exec (.deviceInfo p tag b) s = .next ((s.admitted p tag (.deviceInfo b) k).answer p k .done .record
        (some ([(s.seq d).state.code, reasonCode (s.seq d).absentReason] ++
          (match (s.seq d).probedId with
            | none => [0#8, 0#8, 0#8, 0#8]
            | some i => [1#8, i.b0, i.b1, i.b2]) ++
          (s.profile d).record.wire)))) ∧
    (s.Admits p tag (.deviceInfo b) k → 2 ≤ b.toNat →
      exec (.deviceInfo p tag b) s = .next ((s.admitted p tag (.deviceInfo b) k).answer p k .malformed)) ∧
    (s.Admits p tag (.setAttention b) k → b.toNat < 8 →
      exec (.setAttention p tag b) s =
        .next (((s.admitted p tag (.setAttention b) k).setLink p
          { (s.admitted p tag (.setAttention b) k).link p with
            mask := ⟨b.getLsbD 0, b.getLsbD 1, b.getLsbD 2⟩ }).answer p k .done (.mask b))) ∧
    (s.Admits p tag (.setAttention b) k → 8 ≤ b.toNat →
      exec (.setAttention p tag b) s = .next ((s.admitted p tag (.setAttention b) k).answer p k .malformed)))

/-! ### CANCEL (R147, R148) -/

/-- The outcomes of a CANCEL (R147, R34, R148). -/
def Obligations.CancelActsOnItsTarget : Prop :=
  ∀ (s : State) (p : Port) (tag target : Byte) (k : Slot) (t : State), s.Admits p tag (.cancel target) k →
    (s.exch p).WellFormed → t = s.admitted p tag (.cancel target) k →
    ((s.exch p).tagHeld target = false → exec (.cancel p tag target) s = .next (t.answer p k .unknownTag)) ∧
    (∀ j, (s.entry p j).state.holdsTag = true → (s.entry p j).tag = some target →
      (∀ n, (s.entry p j).state = .queued → (s.entry p j).region = some n →
        exec (.cancel p tag target) s =
          .next (((t.answer p j .cancelled).answer p k .done).leaveRelease p j n)) ∧
      (∀ n c, (s.entry p j).state = .waiting → (s.entry p j).isClaim = true → (s.entry p j).region = some n →
        (s.region n).queue.find? (fun x => x.port == p) = some c →
        exec (.cancel p tag target) s =
          .next (((t.setRegion n { s.region n with
            queue := (s.region n).queue.filter fun x => !(x.port == p) }).answer p c.slot .cancelled).answer p k
              .done)) ∧
      ((s.entry p j).state = .active → (s.entry p j).isErase = true → (s.entry p j).stop = .none →
        exec (.cancel p tag target) s =
          .next ((t.setEntry p j { s.entry p j with stop := .cancel }).answer p k .done)) ∧
      (((s.entry p j).state = .active ∧ ((s.entry p j).isErase = false ∨ (s.entry p j).stop ≠ .none)) ∨
        ((s.entry p j).state = .waiting ∧ (s.entry p j).isClaim = false) ∨ (s.entry p j).state = .answered →
        exec (.cancel p tag target) s = .next (t.answer p k .tooLate)))

/-! ### Flash requests (chapter 3) -/

/-- A READ, PROGRAM or ERASE that passes its checks is QUEUED for its device (R53, R54, R58, R66): on a device that is not
IDLE it waits, and on an IDLE one the arbiter selects in the same action (R82); IdleDeviceStartsTheRequest says what that
selection does. -/
def Obligations.FlashRequestsAreQueued : Prop :=
  (∀ (s : State) (p : Port) (tag b : Byte) (k : Slot) (n : RegionId) (d : Dev) (e : EpochField) (q : Request)
    (c : Instr), regionOf b = some n → (s.region n).device = some d → (s.seq d).state ≠ .absent →
    (s.seq d).state ≠ .faulted → requestOf c = some (p, tag, q) → s.Admits p tag q k →
    (e.presence = 0#8 ∨ (e.presence = 1#8 ∧ e.value = s.epoch)) →
    ((∃ o l, q = .read b o l e ∧ (s.region n).state ≠ .free ∧ (s.region n).state ≠ .retiring ∧
        (s.region n).readRights.has p = true ∧ 1 ≤ l.toNat ∧ l.toNat ≤ 256 ∧
        o.toNat + l.toNat ≤ (s.region n).sectorCount * 4096) ∨
     ((s.region n).state = .leased ∧ (s.region n).holder = some p ∧
       ((∃ o f data, q = .program b o f e data ∧ (f = 0#8 ∨ f = 1#8) ∧ 1 ≤ data.length ∧
          o.toNat + data.length ≤ (s.region n).sectorCount * 4096 ∧ o.toNat % 256 + data.length ≤ 256) ∨
        (∃ f m, q = .erase b f m e ∧ 1 ≤ m.toNat ∧ m.toNat ≤ 65536 ∧
          f.toNat + m.toNat ≤ (s.region n).sectorCount)))) →
    exec c s = .next ((s.admitted p tag q k).enqueue p k d)) ∧
  (∀ (s : State) (p : Port) (k : Slot) (d : Dev), (s.seq d).state ≠ .idle →
    s.enqueue p k d = s.setEntry p k { s.entry p k with state := .queued })

/-- The refusals of READ, PROGRAM and ERASE in the order of R53, R54, R58 and R66; NO_REGION is in
NumbersBeyondTheTableAreFree. -/
def Obligations.FlashRequestsAreRefusedInOrder : Prop :=
  ∀ (s : State) (p : Port) (tag b : Byte) (k : Slot) (n : RegionId) (d : Dev) (e : EpochField) (q : Request)
    (c : Instr) (answered : Result → Host.Outcome State Fault Refusal),
    regionOf b = some n → (s.region n).device = some d → (s.region n).state ≠ .free →
    requestOf c = some (p, tag, q) → s.Admits p tag q k →
    answered = (fun x => .next ((s.admitted p tag q k).answer p k x)) →
    (∀ o l, q = .read b o l e → exec c s =
      if 2 ≤ e.presence.toNat then answered .malformed
      else if (s.region n).state = .retiring then answered .retired
      else if (s.region n).readRights.has p = false then answered .noRight
      else if l.toNat = 0 ∨ 256 < l.toNat ∨ (s.region n).sectorCount * 4096 < o.toNat + l.toNat then
        answered .badRange
      else if e.presence = 1#8 ∧ e.value ≠ s.epoch then answered .stale
      else if (s.seq d).state = .absent then answered .deviceAbsent
      else if (s.seq d).state = .faulted then answered .deviceFault
      else exec c s) ∧
    (∀ o f data, q = .program b o f e data → exec c s =
      if 2 ≤ f.toNat ∨ 2 ≤ e.presence.toNat then answered .malformed
      else if (s.region n).state = .retiring then answered .retired
      else if (s.region n).state ≠ .leased ∨ (s.region n).holder ≠ some p then answered .notHolder
      else if data.length = 0 ∨ (s.region n).sectorCount * 4096 < o.toNat + data.length ∨
          256 < o.toNat % 256 + data.length then answered .badRange
      else if e.presence = 1#8 ∧ e.value ≠ s.epoch then answered .stale
      else if (s.seq d).state = .absent then answered .deviceAbsent
      else if (s.seq d).state = .faulted then answered .deviceFault
      else exec c s) ∧
    (∀ f m, q = .erase b f m e → exec c s =
      if 2 ≤ e.presence.toNat then answered .malformed
      else if (s.region n).state = .retiring then answered .retired
      else if (s.region n).state ≠ .leased ∨ (s.region n).holder ≠ some p then answered .notHolder
      else if m.toNat = 0 ∨ 65536 < m.toNat ∨ (s.region n).sectorCount < f.toNat + m.toNat then answered .badRange
      else if e.presence = 1#8 ∧ e.value ≠ s.epoch then answered .stale
      else if (s.seq d).state = .absent then answered .deviceAbsent
      else if (s.seq d).state = .faulted then answered .deviceFault
      else exec c s)

/-- A flash request that is QUEUED on an IDLE device with no other work is selected and started in the same action (R55,
R59, R67, R68, R82, R83): the entry is ACTIVE and the device TRANSFER with it as its current operation; a READ requests
its data, and a PROGRAM or the first sector step makes the region dirty, reads its settings and requests its write
enable. -/
def Obligations.IdleDeviceStartsTheRequest : Prop :=
  ∀ (s : State) (p : Port) (k : Slot) (d : Dev) (t : State), (s.seq d).state = .idle →
    (∀ q j, (s.entry q j).device = some d → (s.entry q j).state.inLine = false) → k ∈ (s.exch p).order →
    (s.entry p k).device = some d → t = s.setEntry p k { s.entry p k with state := .active } →
    (∀ b o l e, (s.entry p k).request = some (.read b o l e) →
      s.enqueue p k d = (t.setSeq d { s.seq d with
        state := .transfer, current := some ⟨p, k⟩, lastServed := p }).place d
        { use := .readData, opcode := (s.profile d).readOp, addrBytes := (s.profile d).addressBytes,
          addr := BitVec.ofNat 32 (s.baseOf (s.entry p k) * 4096 + o.toNat), dummy := (s.profile d).readDummy,
          out := [], inCount := l.toNat, lanes := (s.profile d).readLanes }) ∧
    (∀ n b o f e data, (s.entry p k).request = some (.program b o f e data) → (s.entry p k).region = some n →
      s.enqueue p k d = ((t.setRegion n { s.region n with dirty := true }).setSeq d { s.seq d with
        state := .transfer, current := some ⟨p, k⟩, lastServed := p, stepPoll := s.settings.pollInterval,
        stepTimeout := some s.settings.programTimeout, writeEnables := 1 }).place d
        (opcodeOnly .writeEnable (s.profile d).writeEnableOp)) ∧
    (∀ n b f c e, (s.entry p k).request = some (.erase b f c e) → (s.entry p k).region = some n →
      (s.entry p k).stop = .none →
      s.enqueue p k d = ((t.setRegion n { s.region n with dirty := true }).setSeq d { s.seq d with
        state := .transfer, current := some ⟨p, k⟩, lastServed := p, stepPoll := s.settings.pollInterval,
        stepTimeout := some s.settings.eraseTimeout, stepSuspendLimit := s.settings.suspendLimit,
        stepDwell := s.settings.resumeDwell, writeEnables := 1 }).place d
        (opcodeOnly .writeEnable (s.profile d).writeEnableOp))

/-! ### Transactions, operations and steps (chapters 3 and 4) -/

/-- Requests and grants of the bus (R96, R98): a request on an idle bus with no other waiting is granted at once, else it
waits; at a transaction's end the only waiting request is granted, or that of the device the pointer prefers; a grant reads
the divider and turns the pointer. The end of a transaction whose result is discarded only frees the bus (R89, R91, R101). -/
def Obligations.BusIsGrantedInTurn : Prop :=
  ((∀ (s : State) (d : Dev) (t : Transaction),
    (s.bus.cur = none → (s.seq (otherDev d)).busRequest = none →
      s.place d t = { s.setSeq d { s.seq d with busRequest := none } with
        bus := { cur := some { dev := d, txn := t, divider := s.settings.clockDivider, elapsed := 0, live := true },
                 pointer := otherDev d, gap := s.bus.gap } }) ∧
    (s.bus.cur ≠ none ∨ (s.seq (otherDev d)).busRequest ≠ none →
      s.place d t = s.setSeq d { s.seq d with busRequest := some t })) ∧
  (∀ (s : State) (d : Dev) (t : Transaction), s.bus.cur = none → (s.seq d).busRequest = some t →
    (s.bus.pointer = d ∨ (s.seq (otherDev d)).busRequest = none) →
    s.grantNext = { s.setSeq d { s.seq d with busRequest := none } with
      bus := { cur := some { dev := d, txn := t, divider := s.settings.clockDivider, elapsed := 0, live := true },
               pointer := otherDev d, gap := s.bus.gap } }) ∧
  (∀ s : State, (s.bus.cur ≠ none ∨ ∀ d, (s.seq d).busRequest = none) → s.grantNext = s)) ∧
  (∀ (s : State) (c : Instr) (d : Dev) (use : BusUse) (n : Nat) (t : OnBus),
    endOf c = some (d, use, n) → s.resetn = true → s.bus.cur = some t → t.dev = d → t.txn.use = use →
    t.txn.inCount = n → t.live = false →
    exec c s = .next (s.setBus { s.bus with cur := none, gap := 8 }).grantNext)

/-- The selection of an IDLE device (R80 to R83): the ports are tried from the one after the last-served port in the order
A, B, C, A, and the first head that may start is acted on according to its kind. A range that meets a stop request at its
boundary ends (R68, R72): ACTIVE it is answered with its stop's result and its progress, DRAINING it becomes VACANT (R74);
the device stays as it is, and the next selection is made in the same action, from the port after the range's. The ends of
all such ranges are then reported to the Region Table, and the next head starts (log 23). -/
def Obligations.SelectionIsCyclic : Prop :=
  (∀ (s : State) (d : Dev) (test : Port → Slot → Bool) (p q r : Port) (k : Slot),
    [p, q, r] = (match (s.seq d).lastServed with | .a => [.b, .c, .a] | .b => [.c, .a, .b] | .c => [.a, .b, .c]) →
    (s.head d p = some k → test p k = true → s.pick d test = some ⟨p, k⟩) ∧
    ((∀ j, s.head d p = some j → test p j = false) → s.head d q = some k → test q k = true →
      s.pick d test = some ⟨q, k⟩) ∧
    ((∀ j, s.head d p = some j → test p j = false) → (∀ j, s.head d q = some j → test q j = false) →
      s.head d r = some k → test r k = true → s.pick d test = some ⟨r, k⟩) ∧
    ((∀ x j, s.head d x = some j → test x j = false) → s.pick d test = none)) ∧
  (∀ (s : State) (d : Dev) (r : EntryRef) (u : State),
    s.pick d (fun p k => (s.entry p k).startable) = some r →
    u = s.setSeq d { s.seq d with lastServed := r.port } →
    ((s.entry r.port r.slot).isRead = true → s.startNext d = u.startRead d r .transfer) ∧
    ((s.entry r.port r.slot).isProgram = true → s.startNext d = u.startProgram d r) ∧
    ((s.entry r.port r.slot).isErase = true → (s.entry r.port r.slot).stop = .none →
      s.startNext d = u.startSectorStep d r) ∧
    (∀ fuel, (s.entry r.port r.slot).isErase = false ∨ (s.entry r.port r.slot).stop = .none →
      State.endStopped d (fuel + 1) s = (s, []))) ∧
  (∀ (s : State) (d : Dev) (r : EntryRef) (x : Result) (e : Entry) (u : State) (fuel : Nat),
    s.pick d (fun p k => (s.entry p k).startable) = some r → e = s.entry r.port r.slot → e.isErase = true →
    ((e.stop = .cancel ∧ x = .cancelled) ∨ (e.stop = .leaseLost ∧ x = .leaseLost) ∨
      (e.stop = .retired ∧ x = .retired) ∨ (e.stop = .portReset ∧ e.state = .draining ∧ x = .cancelled)) →
    u = (s.setSeq d { s.seq d with lastServed := r.port }).endEntry r.port r.slot x →
    State.endStopped d (fuel + 1) s =
      ((State.endStopped d fuel u).1, (r, e) :: (State.endStopped d fuel u).2) ∧
    (e.state = .active → u.entry r.port r.slot = { e with
      state := .answered, result := some x, values := .progress e.progress }) ∧
    (e.state = .draining → u.entry r.port r.slot = Entry.vacant) ∧
    (∀ q j, (q, j) ≠ (r.port, r.slot) → u.entry q j = s.entry q j) ∧
    u = { s with exchs := u.exchs, seqs := u.seqs } ∧ u.seq d = { s.seq d with lastServed := r.port } ∧
    u.seq (otherDev d) = s.seq (otherDev d)) ∧
  (∀ (s : State) (d : Dev),
    s.selectIdle d = ((s.regroup (State.endStopped d 25 s).1).reportEnds (State.endStopped d 25 s).2).startNext d ∧
    (s.pick d (fun p k => (s.entry p k).startable) = none →
      s.startNext d = s ∧ ∀ fuel, State.endStopped d fuel s = (s, [])))

/-- READ_DATA_END (R56, R75, R109, R110): the READ ends DONE with its data, the region's generation and UNSETTLED; the device
returns to IDLE and selects, or in a suspension it stays SUSPENDED and comes to a selection moment. CLEAR_STATUS_END ends
the operation PROGRAM_FAIL or ERASE_FAIL (R62, R69), and VERIFY_READ_END ends the PROGRAM DONE, or VERIFY_MISMATCH with the
region offset of the first differing byte and the count of differing bytes (R63, R64). -/
def Obligations.FinalTransactionsEndTheOperation : Prop :=
  (∀ (s : State) (d : Dev) (bytes : List Byte) (r : EntryRef) (n : RegionId) (v : Values),
    s.Ends d .readData bytes.length → s.Runs d r → (s.entry r.port r.slot).region = some n →
    v = .read (s.region n).generation ((s.region n).dirty && !((s.region n).holder == some r.port)) →
    ((s.seq d).suspendedStep = none →
      exec (.readDataEnd d bytes) s = .next (s.releaseBus.endOperation d r .done v (some bytes)).grantNext) ∧
    (∀ range, (s.seq d).suspendedStep = some range →
      exec (.readDataEnd d bytes) s = .next
        (((((s.releaseBus.setSeq d { s.seq d with current := none }).endEntry r.port r.slot .done v
          (some bytes)).reportEnds [(r, s.entry r.port r.slot)]).selectSuspended d range).grantNext))) ∧
  (∀ (s : State) (d : Dev) (r : EntryRef), s.Runs d r →
    (s.Ends d .clearStatus 0 → exec (.clearStatusEnd d) s =
      .next (s.releaseBus.endOperation d r
        (if (s.entry r.port r.slot).isProgram then .programFail else .eraseFail) .none none).grantNext) ∧
    (∀ bytes, s.Ends d .verifyRead bytes.length → bytes = (s.entry r.port r.slot).payload →
      exec (.verifyReadEnd d bytes) s = .next (s.releaseBus.endOperation d r .done .none none).grantNext) ∧
    (∀ bytes b o f e data i, s.Ends d .verifyRead bytes.length →
      (s.entry r.port r.slot).request = some (.program b o f e data) →
      bytes.length = (s.entry r.port r.slot).payload.length → i < bytes.length →
      bytes[i]? ≠ (s.entry r.port r.slot).payload[i]? →
      (∀ j, j < i → bytes[j]? = (s.entry r.port r.slot).payload[j]?) →
      exec (.verifyReadEnd d bytes) s = .next (s.releaseBus.endOperation d r .verifyMismatch
        (.mismatch (BitVec.ofNat 32 (o.toNat + i))
          ((List.range bytes.length).countP fun j => bytes[j]? != (s.entry r.port r.slot).payload[j]?))
        none).grantNext))

/-- The end of a started operation (R74, R75, R88): an ACTIVE entry is answered, a DRAINING one becomes VACANT, the device is
IDLE with the port as last served and selects in the same action (R82, R83), and the Region Table hears of the operation and
of the stopped ranges that the selection ended: by increasing region number (R178), with the answers of these entries, and
then the answers caused, each joining in admission order (R49, R144, R75); that an entry's own answer stands before every
answer caused by another end of the action is the model's reading (log 23). A completed sector step (R70): the progress
rises by one; below the count the range yields, the device is IDLE with the range's port as last served and selects; at the
count the range ends DONE, or as its stop request says (R72). That the record's step suspend limit and step
dwell keep what the step read is the model's choice (log 28). -/
def Obligations.OperationsAndStepsEnd : Prop :=
  (∀ (s : State) (d : Dev) (r : EntryRef) (x : Result) (v : Values) (b : Option (List Byte)) (u : State),
    u = (s.setSeq d { s.seq d with
      state := .idle, current := none, suspendCount := 0, lastServed := r.port, dwellTimer := none,
      stepTimeout := none, writeEnables := 0 }).endEntry r.port r.slot x v b →
    s.endOperation d r x v b = ((s.regroup (State.endStopped d 25 u).1).reportEnds
      ((r, s.entry r.port r.slot) :: (State.endStopped d 25 u).2)).startNext d ∧
    ((s.entry r.port r.slot).state = .active → s.endEntry r.port r.slot x v b = s.answer r.port r.slot x v b) ∧
    ((s.entry r.port r.slot).state = .draining → s.endEntry r.port r.slot x v b = s.vacate r.port r.slot ∧
      (s.vacate r.port r.slot).entry r.port r.slot = Entry.vacant)) ∧
  ((∀ (s : State) (r : EntryRef) (e : Entry) (n : RegionId), e.region = some n → e.state.running = true →
    s.reportEnds [(r, e)] = s.regroup (s.operationEnded r.port r.slot n e.isWrite)) ∧
   (∀ (s : State) (r₁ r₂ : EntryRef) (e₁ e₂ : Entry) (m n : RegionId), e₁.region = some m → e₂.region = some n →
    n < m → e₁.state.running = true → e₂.state.running = true →
    s.reportEnds [(r₁, e₁), (r₂, e₂)] =
      s.regroup ((s.operationEnded r₂.port r₂.slot n e₂.isWrite).operationEnded r₁.port r₁.slot m e₁.isWrite)) ∧
   (∀ (s t : State) (p : Port),
    ((s.regroup t).exch p).answers = (s.exch p).answers ++
      (t.exch p).order.filter (fun k => decide (k ∈ (t.exch p).answers ∧ k ∉ (s.exch p).answers)) ∧
    (∀ k, (s.regroup t).entry p k = t.entry p k) ∧ s.regroup t = { t with exchs := (s.regroup t).exchs })) ∧
  (∀ (s : State) (d : Dev) (r : EntryRef) (b : Byte) (f : Half) (c : Word) (e : EpochField) (u : State),
    (s.entry r.port r.slot).request = some (.erase b f c e) →
    u = s.setEntry r.port r.slot { s.entry r.port r.slot with progress := (s.entry r.port r.slot).progress + 1 } →
    ((s.entry r.port r.slot).progress + 1 < c.toNat → s.sectorStepCompleted d r =
      (u.setSeq d { s.seq d with
        state := .idle, current := none, suspendCount := 0, lastServed := r.port, dwellTimer := none,
        stepTimeout := none, writeEnables := 0 }).selectIdle d) ∧
    (c.toNat ≤ (s.entry r.port r.slot).progress + 1 →
      ((s.entry r.port r.slot).stop = .none → s.sectorStepCompleted d r = u.endOperation d r .done .none none) ∧
      ((s.entry r.port r.slot).stop = .cancel → s.sectorStepCompleted d r = u.endOperation d r .cancelled .none none) ∧
      ((s.entry r.port r.slot).stop = .leaseLost →
        s.sectorStepCompleted d r = u.endOperation d r .leaseLost .none none) ∧
      ((s.entry r.port r.slot).stop = .retired → s.sectorStepCompleted d r = u.endOperation d r .retired .none none)))

/-- WRITE_ENABLE_END and LATCH_STATUS_END (R60, R61, R69): with a latch bit a status read follows, and the issuing
transaction follows at once without one or when the bit reads 1; after a first failed check a second write enable is made,
after a second the operation ends WRITE_ENABLE_FAIL. -/
def Obligations.LatchCheckPrecedesTheIssue : Prop :=
  ∀ (s : State) (d : Dev) (r : EntryRef) (issue : Transaction), s.Runs d r →
    ((∃ b o f e data, (s.entry r.port r.slot).request = some (.program b o f e data) ∧
        issue = { use := .pageProgram, opcode := (s.profile d).programOp, addrBytes := (s.profile d).addressBytes,
                  addr := BitVec.ofNat 32 (s.baseOf (s.entry r.port r.slot) * 4096 + o.toNat), dummy := 0,
                  out := (s.entry r.port r.slot).payload, inCount := 0, lanes := (s.profile d).programLanes }) ∨
     (∃ b f c e, (s.entry r.port r.slot).request = some (.erase b f c e) ∧
        issue = { use := .sectorErase, opcode := (s.profile d).eraseOp, addrBytes := (s.profile d).addressBytes,
                  addr := BitVec.ofNat 32 ((s.baseOf (s.entry r.port r.slot) + f.toNat +
                    (s.entry r.port r.slot).progress) * 4096), dummy := 0,
                  out := [], inCount := 0, lanes := ⟨.one, .one, .one⟩ })) →
    (s.Ends d .writeEnable 0 → (s.profile d).latchBit = none →
      exec (.writeEnableEnd d) s = .next (s.releaseBus.place d issue).grantNext) ∧
    (s.Ends d .writeEnable 0 → (s.profile d).latchBit ≠ none →
      exec (.writeEnableEnd d) s = .next (s.releaseBus.place d (statusRead .latchStatus (s.profile d))).grantNext) ∧
    (∀ b i, s.Ends d .latchStatus 1 → (s.profile d).latchBit = some i → b.getLsbD i.val = true →
      exec (.latchStatusEnd d b) s = .next (s.releaseBus.place d issue).grantNext) ∧
    (∀ b i, s.Ends d .latchStatus 1 → (s.profile d).latchBit = some i → b.getLsbD i.val = false →
      (s.seq d).writeEnables < 2 →
      exec (.latchStatusEnd d b) s = .next ((s.releaseBus.setSeq d { s.seq d with
        writeEnables := (s.seq d).writeEnables + 1 }).place d
        (opcodeOnly .writeEnable (s.profile d).writeEnableOp)).grantNext) ∧
    (∀ b i, s.Ends d .latchStatus 1 → (s.profile d).latchBit = some i → b.getLsbD i.val = false →
      2 ≤ (s.seq d).writeEnables →
      exec (.latchStatusEnd d b) s =
        .next (s.releaseBus.endOperation d r .writeEnableFail .none none).grantNext)

/-- The issue of a step (R61, R69, R86, R89, R90, R105): WAIT_READY, the step timer at the timeout that the step read at its
beginning times 1000, the poll timer at its poll interval, and for a sector step the dwell timer at its dwell. The dwell
timer that has run out is removed, and nothing else changes (R105). The end of a suspend or resume transaction sets the
suspend timer to SUSPEND TIMEOUT and requests a status read at once (R107, R113). -/
def Obligations.TimersOfAStepAreSetAndRemoved : Prop :=
  (∀ (s : State) (d : Dev),
    (s.Ends d .pageProgram 0 → exec (.pageProgramEnd d) s = .next (s.releaseBus.setSeq d { s.seq d with
      state := .waitReady, stepTimer := (s.seq d).stepTimeout.map (· * 1000), pollTimer := some (s.seq d).stepPoll,
      dwellTimer := none }).grantNext) ∧
    (s.Ends d .sectorErase 0 → exec (.sectorEraseEnd d) s = .next (s.releaseBus.setSeq d { s.seq d with
      state := .waitReady, stepTimer := (s.seq d).stepTimeout.map (· * 1000), pollTimer := some (s.seq d).stepPoll,
      dwellTimer := some (s.seq d).stepDwell }).grantNext)) ∧
  (∀ (s : State) (d : Dev), s.resetn = true → (s.seq d).state = .waitReady → (s.seq d).dwellTimer = some 0 →
    exec (.dwellTimerExpiry d) s = .next (s.setSeq d { s.seq d with dwellTimer := none })) ∧
  (∀ (s : State) (d : Dev),
    (s.Ends d .suspend 0 → exec (.suspendEnd d) s = .next ((s.releaseBus.setSeq d { s.seq d with
      suspendTimer := some s.settings.suspendTimeout }).place d (statusRead .suspendingStatus (s.profile d))).grantNext) ∧
    (s.Ends d .resume 0 → exec (.resumeEnd d) s = .next ((s.releaseBus.setSeq d { s.seq d with
      suspendTimer := some s.settings.suspendTimeout }).place d (statusRead .resumingStatus (s.profile d))).grantNext))

/-- A poll turn (R86, R104, R106): a sector step is suspended when the profile has a suspend set, the dwell has passed, the
count is below the limit and a port other than the range's has an eligible READ as its head; else a status read is
requested. A program step is never suspended. That the poll timer is absent from the turn until the poll's end is the
model's choice (log 10). -/
def Obligations.PollTurnSuspendsOrReadsStatus : Prop :=
  ∀ (s : State) (d : Dev) (r : EntryRef), s.resetn = true → (s.seq d).state = .waitReady →
    (s.seq d).pollTimer = some 0 → s.Runs d r →
    (∀ x q k b o l e, (s.entry r.port r.slot).isErase = true → (s.profile d).suspendSet = some x →
      (s.seq d).dwellTimer = none → (s.seq d).suspendCount < (s.seq d).stepSuspendLimit → q ≠ r.port →
      s.head d q = some k → (s.entry q k).state = .queued → (s.entry q k).request = some (.read b o l e) →
      (s.stepSector (s.entry r.port r.slot) < s.firstByte (s.entry q k) / 4096 ∨
        (s.firstByte (s.entry q k) + l.toNat - 1) / 4096 < s.stepSector (s.entry r.port r.slot)) →
      exec (.pollTurn d) s = .next ((s.setSeq d { s.seq d with
        state := .suspending, suspendCount := (s.seq d).suspendCount + 1, pollTimer := none }).place d
        (opcodeOnly .suspend x.suspendOp))) ∧
    (((s.entry r.port r.slot).isErase = false ∨ (s.profile d).suspendSet = none ∨ (s.seq d).dwellTimer ≠ none ∨
        (s.seq d).stepSuspendLimit ≤ (s.seq d).suspendCount ∨
        (∀ q k, s.head d q = some k → s.eligible r q k = false)) →
      exec (.pollTurn d) s = .next ((s.setSeq d { s.seq d with pollTimer := none }).place d
        (statusRead .pollStatus (s.profile d))))

/-- POLL_STATUS_END (R62, R63, R69, R70, R86, R87): busy sets the poll timer again; not busy removes the timers and tests the
fail bit, with the clear-status transaction on failure; else a PROGRAM goes on to its verify read or ends DONE, and a sector
step has completed. That the dwell timer and the suspend count stay as they stood until the end of the clear-status
transaction is the model's choice (log 26). -/
def Obligations.FinalStatusEndsThePolling : Prop :=
  ∀ (s : State) (d : Dev) (r : EntryRef) (b : Byte) (u : State), s.Ends d .pollStatus 1 → s.Runs d r →
    u = s.releaseBus.setSeq d { s.seq d with stepTimer := none, pollTimer := none } →
    ((s.profile d).busy b = true → exec (.pollStatusEnd d b) s =
      .next (s.releaseBus.setSeq d { s.seq d with pollTimer := some (s.seq d).stepPoll }).grantNext) ∧
    ((s.profile d).busy b = false → ∀ i op, (s.profile d).failBit = some i → b.getLsbD i.val = true →
      (s.profile d).clearOp = some op → exec (.pollStatusEnd d b) s =
        .next ((u.setSeq d { u.seq d with state := .transfer }).place d (opcodeOnly .clearStatus op)).grantNext) ∧
    ((s.profile d).busy b = false → ∀ i, (s.profile d).failBit = some i → b.getLsbD i.val = true →
      (s.profile d).clearOp = none → exec (.pollStatusEnd d b) s =
        .next (u.endOperation d r (if (s.entry r.port r.slot).isProgram then .programFail else .eraseFail) .none
          none).grantNext) ∧
    ((s.profile d).busy b = false → (∀ i, (s.profile d).failBit = some i → b.getLsbD i.val = false) →
      ((s.entry r.port r.slot).isProgram = true → (s.entry r.port r.slot).verify = true →
        exec (.pollStatusEnd d b) s = .next ((u.setSeq d { u.seq d with state := .transfer }).place d
          { use := .verifyRead, opcode := (s.profile d).readOp, addrBytes := (s.profile d).addressBytes,
            addr := BitVec.ofNat 32 (s.firstByte (s.entry r.port r.slot)), dummy := (s.profile d).readDummy,
            out := [], inCount := (s.entry r.port r.slot).payload.length,
            lanes := (s.profile d).readLanes }).grantNext) ∧
      ((s.entry r.port r.slot).isProgram = true → (s.entry r.port r.slot).verify = false →
        exec (.pollStatusEnd d b) s = .next (u.endOperation d r .done .none none).grantNext) ∧
      ((s.entry r.port r.slot).isProgram = false →
        exec (.pollStatusEnd d b) s = .next (u.sectorStepCompleted d r).grantNext))

/-- The expiry of a step timer in WAIT_READY or SUSPENDING, and of a suspend timer in SUSPENDING or RESUMING, each due at 0
(log 9), is the fault of R91: the device is FAULTED with nothing current, suspended or timed, the entry in flight is
answered DEVICE_TIMEOUT, and every other QUEUED or ACTIVE flash entry of the device DEVICE_FAULT; DRAINING ones become VACANT. -/
def Obligations.TimerExpiryFaultsTheDevice : Prop :=
  ∀ (s : State) (d : Dev) (c : Instr), s.resetn = true → (∀ p, (s.exch p).WellFormed) → s.WaitsReferred →
    ((c = .stepTimerExpiry d ∧ ((s.seq d).state = .waitReady ∨ (s.seq d).state = .suspending) ∧
        (s.seq d).stepTimer = some 0) ∨
     (c = .suspendTimerExpiry d ∧ ((s.seq d).state = .suspending ∨ (s.seq d).state = .resuming) ∧
        (s.seq d).suspendTimer = some 0)) →
    ∃ t, exec c s = .next t ∧ (t.seq d).state = .faulted ∧ (t.seq d).current = none ∧
      (t.seq d).suspendedStep = none ∧ (t.seq d).stepTimer = none ∧ (t.seq d).pollTimer = none ∧
      (t.seq d).dwellTimer = none ∧ (t.seq d).suspendTimer = none ∧ (t.seq d).suspendCount = 0 ∧
      (t.seq d).busRequest = none ∧ (t.seq d).lastServed = (s.seq d).lastServed ∧
      t.seq (otherDev d) = s.seq (otherDev d) ∧ t.deviceFault = true ∧
      (∀ x, s.bus.cur = some x → x.dev = d → t.bus = { s.bus with cur := some { x with live := false } }) ∧
      (∀ p k, (s.entry p k).device = some d →
        ((s.entry p k).state = .queued ∨ (s.entry p k).state = .active) →
        (t.entry p k).state = .answered ∧ (t.entry p k).result =
          some (if (s.seq d).current = some ⟨p, k⟩ then .deviceTimeout else .deviceFault)) ∧
      (∀ p k, (s.entry p k).device = some d → (s.entry p k).state = .draining → t.entry p k = Entry.vacant) ∧
      (∀ p k, (s.entry p k).device ≠ some d → (s.entry p k).state ≠ .waiting → t.entry p k = s.entry p k) ∧
      t = { s with exchs := t.exchs, notices := t.notices, regions := t.regions, epoch := t.epoch, seqs := t.seqs,
                   bus := t.bus }

/-! ### Suspension (chapter 5) -/

/-- A status byte in SUSPENDING (R107): busy, the next status read; not busy with the suspended bit, SUSPENDED and its first
selection moment (R109); neither, the step has ended. A status byte in RESUMING (R113): still suspended, the next status
read; running again, WAIT_READY with a fresh dwell and poll interval and the step timer as it was; else the step has ended.
That the suspend count stays until the end of a clear-status transaction that follows is the model's choice (log 26). -/
def Obligations.StatusInASuspensionDecides : Prop :=
  (∀ (s : State) (d : Dev) (r : EntryRef) (b : Byte), s.Ends d .suspendingStatus 1 → s.Runs d r →
    ((s.profile d).busy b = true → exec (.suspendingStatusEnd d b) s =
      .next (s.releaseBus.place d (statusRead .suspendingStatus (s.profile d))).grantNext) ∧
    ((s.profile d).busy b = false → (s.profile d).isSuspended b = true → exec (.suspendingStatusEnd d b) s =
      .next ((s.releaseBus.setSeq d { s.seq d with
        state := .suspended, current := none, suspendedStep := some r, suspendTimer := none, pollTimer := none,
        readQuota := some s.settings.suspendReads, readsServed := 0 }).selectSuspended d r).grantNext) ∧
    ((s.profile d).busy b = false → (s.profile d).isSuspended b = false → exec (.suspendingStatusEnd d b) s =
      .next ((s.releaseBus.setSeq d { s.seq d with
        suspendTimer := none, stepTimer := none, dwellTimer := none, suspendedStep := none }).pollingEnded d r
          b).grantNext)) ∧
  (∀ (s : State) (d : Dev) (r : EntryRef) (b : Byte), s.Ends d .resumingStatus 1 → s.Runs d r →
    ((s.profile d).isSuspended b = true → exec (.resumingStatusEnd d b) s =
      .next (s.releaseBus.place d (statusRead .resumingStatus (s.profile d))).grantNext) ∧
    ((s.profile d).isSuspended b = false → (s.profile d).busy b = true → exec (.resumingStatusEnd d b) s =
      .next (s.releaseBus.setSeq d { s.seq d with
        state := .waitReady, suspendedStep := none, suspendTimer := none, dwellTimer := some (s.seq d).stepDwell,
        pollTimer := some (s.seq d).stepPoll }).grantNext) ∧
    ((s.profile d).isSuspended b = false → (s.profile d).busy b = false → exec (.resumingStatusEnd d b) s =
      .next ((s.releaseBus.setSeq d { s.seq d with
        suspendTimer := none, stepTimer := none, dwellTimer := none, suspendedStep := none }).pollingEnded d r
          b).grantNext))

/-- A selection moment of a suspension (R109 to R111): with the quota served or without an eligible READ the range is current
again in RESUMING and the resume transaction is requested; else the READ picked is started with the device SUSPENDED. -/
def Obligations.SuspensionServesReadsThenResumes : Prop :=
  ∀ (s : State) (d : Dev) (range : EntryRef) (x : SuspendSet), (s.profile d).suspendSet = some x →
    ((s.seq d).readQuota = some (s.seq d).readsServed ∨ s.pick d (s.eligible range) = none →
      s.selectSuspended d range = (s.setSeq d { s.seq d with
        state := .resuming, current := some range, readQuota := none, readsServed := 0 }).place d
        (opcodeOnly .resume x.resumeOp)) ∧
    (∀ r b o l e, (s.seq d).readQuota ≠ some (s.seq d).readsServed → s.pick d (s.eligible range) = some r →
      (s.entry r.port r.slot).request = some (.read b o l e) →
      s.selectSuspended d range =
        ((s.setEntry r.port r.slot { s.entry r.port r.slot with state := .active }).setSeq d { s.seq d with
          state := .suspended, current := some r, lastServed := r.port,
          readsServed := (s.seq d).readsServed + 1 }).place d
          { use := .readData, opcode := (s.profile d).readOp, addrBytes := (s.profile d).addressBytes,
            addr := BitVec.ofNat 32 (s.baseOf (s.entry r.port r.slot) * 4096 + o.toNat),
            dummy := (s.profile d).readDummy, out := [], inCount := l.toNat, lanes := (s.profile d).readLanes })

/-! ### Probes and recoveries (chapter 6) -/

/-- The reset opcodes are sent one after another in their order, then the recovery delay runs (R128); at its end ERASE TIMEOUT
and POLL INTERVAL are read and the first status read is requested; a poll turn requests the next (R129). A status byte:
busy, the poll timer is set again; not busy, the timers go and the probe is requested. The expiry of the poll bound faults
the device: the RECOVER is answered DEVICE_TIMEOUT and the QUEUED entries DEVICE_FAULT. The model's choices among the
clauses: the poll timer is absent from the turn until the poll's end (log 10), and the count of reset opcodes sent is held as
resetsSent (log 14). -/
def Obligations.RecoveryRunsToItsEnd : Prop :=
  (∀ (s : State) (d : Dev),
    (∀ op, s.Ends d .reset 0 → (s.profile d).resetOps[(s.seq d).resetsSent + 1]? = some op →
      exec (.resetTransactionEnd d) s = .next ((s.releaseBus.setSeq d { s.seq d with
        resetsSent := (s.seq d).resetsSent + 1, recoveryPhase := some .reset }).place d
        (opcodeOnly .reset op)).grantNext) ∧
    (s.Ends d .reset 0 → (s.profile d).resetOps[(s.seq d).resetsSent + 1]? = none →
      exec (.resetTransactionEnd d) s = .next (s.releaseBus.setSeq d { s.seq d with
        resetsSent := (s.seq d).resetsSent + 1, recoveryPhase := some .delay,
        recoveryTimer := some (s.profile d).recoveryDelay }).grantNext) ∧
    (s.resetn = true → (s.seq d).state = .recovering → (s.seq d).recoveryPhase = some .delay →
      (s.seq d).recoveryTimer = some 0 →
      exec (.recoveryDelayExpiry d) s = .next ((s.setSeq d { s.seq d with
        recoveryPhase := some .poll, recoveryTimer := some (s.settings.eraseTimeout * 1000),
        stepPoll := s.settings.pollInterval }).place d (statusRead .recoveryStatus (s.profile d)))) ∧
    (s.resetn = true → (s.seq d).state = .recovering → (s.seq d).recoveryPhase = some .poll →
      (s.seq d).pollTimer = some 0 →
      exec (.recoveryPollTurn d) s = .next ((s.setSeq d { s.seq d with pollTimer := none }).place d
        (statusRead .recoveryStatus (s.profile d))))) ∧
  (∀ (s : State) (d : Dev),
    (∀ b, s.Ends d .recoveryStatus 1 → (s.profile d).busy b = true → exec (.recoveryStatusEnd d b) s =
      .next (s.releaseBus.setSeq d { s.seq d with pollTimer := some (s.seq d).stepPoll }).grantNext) ∧
    (∀ b, s.Ends d .recoveryStatus 1 → (s.profile d).busy b = false → exec (.recoveryStatusEnd d b) s =
      .next ((s.releaseBus.setSeq d { s.seq d with
        recoveryPhase := some .probe, recoveryTimer := none, pollTimer := none }).place d
        (.idRead (s.profile d).idOp)).grantNext) ∧
    (s.resetn = true → (s.seq d).state = .recovering → (s.seq d).recoveryPhase = some .poll →
      (s.seq d).recoveryTimer = some 0 → (∀ p, (s.exch p).WellFormed) → s.WaitsReferred →
      ∃ t, exec (.recoveryTimerExpiry d) s = .next t ∧ (t.seq d).state = .faulted ∧ (t.seq d).recoveryPhase = none ∧
        (t.seq d).recoveryTimer = none ∧ (t.seq d).pollTimer = none ∧ (t.seq d).busRequest = none ∧
        (t.seq d).waitingRequest = none ∧
        (∀ r, (s.seq d).waitingRequest = some r →
          (t.entry r.port r.slot).state = .answered ∧ (t.entry r.port r.slot).result = some .deviceTimeout) ∧
        (∀ p k, (s.entry p k).device = some d → (s.entry p k).state = .queued →
          (t.entry p k).state = .answered ∧ (t.entry p k).result = some .deviceFault) ∧
        t = { s with exchs := t.exchs, notices := t.notices, regions := t.regions, epoch := t.epoch, seqs := t.seqs,
                     bus := t.bus }))

/-- The end of a probe (R120, R122, R124, R130): the ID decides between IDLE and ABSENT with its reason; a WAITING
SET_PROFILE or RECOVER is answered first; then the device selects, or its QUEUED entries are answered DEVICE_ABSENT. -/
def Obligations.ProbeDecidesIdleOrAbsent : Prop :=
  ∀ (s : State) (d : Dev) (a b c : Byte) (id : DeviceId) (reason : Option AbsentReason), s.Ends d .idRead 3 →
    id = ⟨a, b, c⟩ →
    reason = (if id = ⟨0x00#8, 0x00#8, 0x00#8⟩ ∨ id = ⟨0xFF#8, 0xFF#8, 0xFF#8⟩ then some .noResponse
      else if (s.profile d).expectedId ≠ none ∧ (s.profile d).expectedId ≠ some id then some .idMismatch
      else none) →
    (reason = none → exec (.idReadEnd d a b c) s =
      .next (((s.releaseBus.setSeq d { s.seq d with
        state := .idle, absentReason := none, probedId := some id, recoveryPhase := none,
        resetsSent := 0 }).answerWaiting d .done (.probed id)).selectIdle d).grantNext) ∧
    (∀ x, reason = some x → exec (.idReadEnd d a b c) s =
      .next (((s.releaseBus.setSeq d { s.seq d with
        state := .absent, absentReason := some x, probedId := some id, recoveryPhase := none,
        resetsSent := 0 }).answerWaiting d .deviceAbsent (.absent id x)).endQueued d .deviceAbsent).grantNext) ∧
    (∀ u x v, (u.seq d).waitingRequest = none → State.answerWaiting u d x v = u) ∧
    (∀ u x v r, (u.seq d).waitingRequest = some r → State.answerWaiting u d x v =
      (u.setSeq d { u.seq d with waitingRequest := none }).answer r.port r.slot x v)

/-! ### Notices, transactions and encodings -/

/-- A posting to a port (R177): a record of the region keeps its place, takes the worse kind and the posting's generation;
without one the posting joins at the tail. The line rises where the list was empty and notices are unmasked. -/
def Obligations.PostingsCoalesceByRegion : Prop :=
  ∀ (s : State) (p : Port) (x : Notice),
    ((∀ r ∈ s.noticeList p, r.region ≠ x.region) → (s.post p x).noticeList p = s.noticeList p ++ [x]) ∧
    (∀ before r after, s.noticeList p = before ++ r :: after → r.region = x.region →
      (∀ y ∈ before, y.region ≠ x.region) →
      (s.post p x).noticeList p = before ++ ⟨r.region,
        (if r.kind = .retired ∨ x.kind = .retired then .retired
         else if r.kind = .leaseLost ∨ x.kind = .leaseLost then .leaseLost else .changed), x.generation⟩ :: after ∧
      ∀ q, (s.post p x).attention q = s.attention q) ∧
    (s.resetn = true → (s.link p).mask.notices = false → (s.post p x).attention p = true) ∧
    (∀ q, q ≠ p → (s.post p x).noticeList q = s.noticeList q ∧ (s.post p x).attention q = s.attention q)

/-- A profile that DEVICE_INFO reports, sent back in a SET_PROFILE, is the same profile, with every field at every value that
R119 admits (R117, R119, R190). -/
def Obligations.ProfileRecordsRoundTrip : Prop :=
  ∀ p : Profile, p.valid = true → parseProfile p.record = some p ∧ p.record.wire.length = 34

/-! ### Invariants of every step -/

/-- An entry that has been answered stays as it is, in its place in the Answer List, until a command of its own port takes or
resets it, or the part is reset (R137, R144, R145). -/
def Obligations.AnsweredEntriesStandUntilTaken : Prop :=
  ∀ (s t : State) (c : Instr) (p : Port) (k : Slot), (s.entry p k).state = .answered → exec c s = .next t →
    c ≠ .takeDelivery p → c ≠ .linkResetConfirm p 0x6D#8 → (∀ a b d, c ≠ .powerOn a b d) →
    (∀ a b d, c ≠ .resetnRelease a b d) →
    t.entry p k = s.entry p k ∧ ((s.exch p).WellFormed → (s.exch p).answers <+: (t.exch p).answers)

/-- Every step keeps the Exchange of every port well formed (R134, R135, R140, R145). -/
def Obligations.StepsKeepTheExchanges : Prop :=
  ∀ s t : State, (∀ p, (s.exch p).WellFormed) → step s = .next t → ∀ p, (t.exch p).WellFormed

/-- Every step keeps every region well formed (R5, R6, R25, R32) and keeps the sum of the regions a port holds and its waiting
claims at 4 or below (R28). -/
def Obligations.StepsKeepTheRegions : Prop :=
  ∀ s t : State, (∀ n, (s.region n).WellFormed) → (∀ p, s.leaseCount p ≤ 4) → step s = .next t →
    (∀ n, (t.region n).WellFormed) ∧ ∀ p, t.leaseCount p ≤ 4

/-- Every step keeps the settings in their ranges (R181), both profiles valid (R119) and at most one notice for a region in
each Notice List (R176). -/
def Obligations.StepsKeepSettingsProfilesAndNotices : Prop :=
  ∀ s t : State, s.settings.inRange → s.profilesValid → (∀ p, noticesOnce (s.noticeList p)) → step s = .next t →
    t.settings.inRange ∧ t.profilesValid ∧ ∀ p, noticesOnce (t.noticeList p)

/-- Every step keeps the ranges of the regions of one device apart and inside the device (R3) and their labels distinct
(R4). -/
def Obligations.StepsKeepTheTableConsistent : Prop :=
  ∀ s t : State, s.TableConsistent → step s = .next t → t.TableConsistent

/-- Every step keeps every reference to a WAITING request right (R143): claim records, the RELEASE of a region, a pending
retire and the waiting request of a device refer to WAITING entries of their kinds, and a TAKE carries an ANSWERED
entry. -/
def Obligations.StepsKeepTheReferences : Prop :=
  ∀ s t : State, (∀ p, (s.exch p).WellFormed) → (∀ n, (s.region n).WellFormed) → s.WaitsReferred → step s = .next t →
    t.WaitsReferred

/-- The reset state has all the invariants that every step keeps. The preset records (R9) and the default profile (R117) that
it holds are as the tables give them. -/
def Obligations.ResetStateIsWellFormed : Prop :=
  ((∀ p, (State.reset.exch p).WellFormed) ∧ (∀ n, (State.reset.region n).WellFormed) ∧
  State.reset.TableConsistent ∧ State.reset.WaitsReferred ∧
  (∀ p, State.reset.leaseCount p ≤ 4) ∧ State.reset.settings.inRange ∧ State.reset.profilesValid ∧
  (∀ p, noticesOnce (State.reset.noticeList p)) ∧ State.reset.pending = []) ∧
  ((∀ (admin : Option Port) (n : RegionId), (presetRegions admin)[n.val] =
    if n.val = 0 then { Region.free with
      state := .opened, device := some .d0, sectorCount := 4096, label := [0x44#8, 0x45#8, 0x56#8, 0x30#8],
      readRights := ⟨true, true, true⟩,
      writeRights := ⟨admin == some .a, admin == some .b, admin == some .c⟩ }
    else if n.val = 1 then { Region.free with
      state := .opened, device := some .d1, sectorCount := 4096, label := [0x44#8, 0x45#8, 0x56#8, 0x31#8],
      readRights := ⟨true, true, true⟩,
      writeRights := ⟨admin == some .a, admin == some .b, admin == some .c⟩ }
    else Region.free) ∧
  Profile.default.valid = true ∧ Profile.default.sectors = 4096 ∧
  Profile.default.record.wire =
    [0x18#8, 0x03#8, 0x0B#8, 0x08#8, 0x01#8, 0x01#8, 0x01#8, 0x02#8, 0x01#8, 0x01#8, 0x01#8, 0x20#8, 0x06#8, 0x05#8,
     0x00#8, 0x01#8, 0x01#8, 0xFF#8, 0x00#8, 0x00#8, 0x00#8, 0x00#8, 0x00#8, 0x00#8, 0x9F#8, 0x00#8, 0x00#8, 0x00#8,
     0x00#8, 0x02#8, 0x66#8, 0x99#8, 0x00#8, 0x64#8])
end

