-- ==== Sys2Proof/Laws/State.lean ====
section
/-! SUPPORT. One lemma for each field of State and each update of it, and the reads of what was written. -/

namespace Sys2Proof.Machine

/-! ### One record of each kind -/

@[simp] theorem PerPort.get_set_same {α : Type} (x : PerPort α) (p : Port) (v : α) : (x.set p v).get p = v := by
  cases p <;> rfl

theorem PerPort.get_set_other {α : Type} (x : PerPort α) {p q : Port} (h : q ≠ p) (v : α) :
    (x.set p v).get q = x.get q := by
  cases p <;> cases q <;> first | rfl | exact absurd rfl h

theorem PerPort.get_set {α : Type} (x : PerPort α) (p q : Port) (v : α) :
    (x.set p v).get q = if q = p then v else x.get q := by
  cases p <;> cases q <;> rfl

@[simp] theorem PerPort.set_set {α : Type} (x : PerPort α) (p : Port) (v w : α) :
    (x.set p v).set p w = x.set p w := by
  cases p <;> rfl

@[simp] theorem PerPort.set_get {α : Type} (x : PerPort α) (p : Port) : x.set p (x.get p) = x := by
  cases p <;> rfl

theorem PerPort.ext_get {α : Type} {x y : PerPort α} (h : ∀ p, x.get p = y.get p) : x = y := by
  obtain ⟨xa, xb, xc⟩ := x
  obtain ⟨ya, yb, yc⟩ := y
  have ha := h .a
  have hb := h .b
  have hc := h .c
  simp only [PerPort.get] at ha hb hc
  subst ha hb hc
  rfl

@[simp] theorem PerDev.get_set_same {α : Type} (x : PerDev α) (d : Dev) (v : α) : (x.set d v).get d = v := by
  cases d <;> rfl

theorem PerDev.get_set_other {α : Type} (x : PerDev α) {d e : Dev} (h : e ≠ d) (v : α) :
    (x.set d v).get e = x.get e := by
  cases d <;> cases e <;> first | rfl | exact absurd rfl h

theorem PerDev.get_set {α : Type} (x : PerDev α) (d e : Dev) (v : α) :
    (x.set d v).get e = if e = d then v else x.get e := by
  cases d <;> cases e <;> rfl

@[simp] theorem PerDev.set_set {α : Type} (x : PerDev α) (d : Dev) (v w : α) :
    (x.set d v).set d w = x.set d w := by
  cases d <;> rfl

@[simp] theorem otherDev_ne (d : Dev) : otherDev d ≠ d := by
  cases d <;> decide

@[simp] theorem otherDev_otherDev (d : Dev) : otherDev (otherDev d) = d := by
  cases d <;> rfl

theorem mem_allPorts (p : Port) : p ∈ allPorts := by
  cases p <;> decide

theorem mem_allRegions (n : RegionId) : n ∈ allRegions := List.mem_finRange n

theorem mem_allSlots (k : Slot) : k ∈ allSlots := List.mem_finRange k

/-! ### Fields that an update leaves alone -/

@[simp] theorem State.setLink_resetn (s : State) (p : Port) (v : Link) : (s.setLink p v).resetn = s.resetn := rfl
@[simp] theorem State.setLink_exchs (s : State) (p : Port) (v : Link) : (s.setLink p v).exchs = s.exchs := rfl
@[simp] theorem State.setLink_notices (s : State) (p : Port) (v : Link) : (s.setLink p v).notices = s.notices := rfl
@[simp] theorem State.setLink_regions (s : State) (p : Port) (v : Link) : (s.setLink p v).regions = s.regions := rfl
@[simp] theorem State.setLink_epoch (s : State) (p : Port) (v : Link) : (s.setLink p v).epoch = s.epoch := rfl
@[simp] theorem State.setLink_admin (s : State) (p : Port) (v : Link) : (s.setLink p v).admin = s.admin := rfl
@[simp] theorem State.setLink_seqs (s : State) (p : Port) (v : Link) : (s.setLink p v).seqs = s.seqs := rfl
@[simp] theorem State.setLink_profiles (s : State) (p : Port) (v : Link) : (s.setLink p v).profiles = s.profiles := rfl
@[simp] theorem State.setLink_bus (s : State) (p : Port) (v : Link) : (s.setLink p v).bus = s.bus := rfl
@[simp] theorem State.setLink_settings (s : State) (p : Port) (v : Link) : (s.setLink p v).settings = s.settings := rfl
@[simp] theorem State.setLink_pending (s : State) (p : Port) (v : Link) : (s.setLink p v).pending = s.pending := rfl

@[simp] theorem State.setExch_resetn (s : State) (p : Port) (v : Exchange) : (s.setExch p v).resetn = s.resetn := rfl
@[simp] theorem State.setExch_links (s : State) (p : Port) (v : Exchange) : (s.setExch p v).links = s.links := rfl
@[simp] theorem State.setExch_notices (s : State) (p : Port) (v : Exchange) : (s.setExch p v).notices = s.notices := rfl
@[simp] theorem State.setExch_regions (s : State) (p : Port) (v : Exchange) : (s.setExch p v).regions = s.regions := rfl
@[simp] theorem State.setExch_epoch (s : State) (p : Port) (v : Exchange) : (s.setExch p v).epoch = s.epoch := rfl
@[simp] theorem State.setExch_admin (s : State) (p : Port) (v : Exchange) : (s.setExch p v).admin = s.admin := rfl
@[simp] theorem State.setExch_seqs (s : State) (p : Port) (v : Exchange) : (s.setExch p v).seqs = s.seqs := rfl
@[simp] theorem State.setExch_profiles (s : State) (p : Port) (v : Exchange) : (s.setExch p v).profiles = s.profiles := rfl
@[simp] theorem State.setExch_bus (s : State) (p : Port) (v : Exchange) : (s.setExch p v).bus = s.bus := rfl
@[simp] theorem State.setExch_settings (s : State) (p : Port) (v : Exchange) : (s.setExch p v).settings = s.settings := rfl
@[simp] theorem State.setExch_pending (s : State) (p : Port) (v : Exchange) : (s.setExch p v).pending = s.pending := rfl

@[simp] theorem State.setNotices_resetn (s : State) (p : Port) (v : List Notice) : (s.setNotices p v).resetn = s.resetn := rfl
@[simp] theorem State.setNotices_links (s : State) (p : Port) (v : List Notice) : (s.setNotices p v).links = s.links := rfl
@[simp] theorem State.setNotices_exchs (s : State) (p : Port) (v : List Notice) : (s.setNotices p v).exchs = s.exchs := rfl
@[simp] theorem State.setNotices_regions (s : State) (p : Port) (v : List Notice) : (s.setNotices p v).regions = s.regions := rfl
@[simp] theorem State.setNotices_epoch (s : State) (p : Port) (v : List Notice) : (s.setNotices p v).epoch = s.epoch := rfl
@[simp] theorem State.setNotices_admin (s : State) (p : Port) (v : List Notice) : (s.setNotices p v).admin = s.admin := rfl
@[simp] theorem State.setNotices_seqs (s : State) (p : Port) (v : List Notice) : (s.setNotices p v).seqs = s.seqs := rfl
@[simp] theorem State.setNotices_profiles (s : State) (p : Port) (v : List Notice) : (s.setNotices p v).profiles = s.profiles := rfl
@[simp] theorem State.setNotices_bus (s : State) (p : Port) (v : List Notice) : (s.setNotices p v).bus = s.bus := rfl
@[simp] theorem State.setNotices_settings (s : State) (p : Port) (v : List Notice) : (s.setNotices p v).settings = s.settings := rfl
@[simp] theorem State.setNotices_pending (s : State) (p : Port) (v : List Notice) : (s.setNotices p v).pending = s.pending := rfl

@[simp] theorem State.setRegion_resetn (s : State) (n : RegionId) (v : Region) : (s.setRegion n v).resetn = s.resetn := rfl
@[simp] theorem State.setRegion_links (s : State) (n : RegionId) (v : Region) : (s.setRegion n v).links = s.links := rfl
@[simp] theorem State.setRegion_exchs (s : State) (n : RegionId) (v : Region) : (s.setRegion n v).exchs = s.exchs := rfl
@[simp] theorem State.setRegion_notices (s : State) (n : RegionId) (v : Region) : (s.setRegion n v).notices = s.notices := rfl
@[simp] theorem State.setRegion_epoch (s : State) (n : RegionId) (v : Region) : (s.setRegion n v).epoch = s.epoch := rfl
@[simp] theorem State.setRegion_admin (s : State) (n : RegionId) (v : Region) : (s.setRegion n v).admin = s.admin := rfl
@[simp] theorem State.setRegion_seqs (s : State) (n : RegionId) (v : Region) : (s.setRegion n v).seqs = s.seqs := rfl
@[simp] theorem State.setRegion_profiles (s : State) (n : RegionId) (v : Region) : (s.setRegion n v).profiles = s.profiles := rfl
@[simp] theorem State.setRegion_bus (s : State) (n : RegionId) (v : Region) : (s.setRegion n v).bus = s.bus := rfl
@[simp] theorem State.setRegion_settings (s : State) (n : RegionId) (v : Region) : (s.setRegion n v).settings = s.settings := rfl
@[simp] theorem State.setRegion_pending (s : State) (n : RegionId) (v : Region) : (s.setRegion n v).pending = s.pending := rfl

@[simp] theorem State.setSeq_resetn (s : State) (d : Dev) (v : Sequencer) : (s.setSeq d v).resetn = s.resetn := rfl
@[simp] theorem State.setSeq_links (s : State) (d : Dev) (v : Sequencer) : (s.setSeq d v).links = s.links := rfl
@[simp] theorem State.setSeq_exchs (s : State) (d : Dev) (v : Sequencer) : (s.setSeq d v).exchs = s.exchs := rfl
@[simp] theorem State.setSeq_notices (s : State) (d : Dev) (v : Sequencer) : (s.setSeq d v).notices = s.notices := rfl
@[simp] theorem State.setSeq_regions (s : State) (d : Dev) (v : Sequencer) : (s.setSeq d v).regions = s.regions := rfl
@[simp] theorem State.setSeq_epoch (s : State) (d : Dev) (v : Sequencer) : (s.setSeq d v).epoch = s.epoch := rfl
@[simp] theorem State.setSeq_admin (s : State) (d : Dev) (v : Sequencer) : (s.setSeq d v).admin = s.admin := rfl
@[simp] theorem State.setSeq_profiles (s : State) (d : Dev) (v : Sequencer) : (s.setSeq d v).profiles = s.profiles := rfl
@[simp] theorem State.setSeq_bus (s : State) (d : Dev) (v : Sequencer) : (s.setSeq d v).bus = s.bus := rfl
@[simp] theorem State.setSeq_settings (s : State) (d : Dev) (v : Sequencer) : (s.setSeq d v).settings = s.settings := rfl
@[simp] theorem State.setSeq_pending (s : State) (d : Dev) (v : Sequencer) : (s.setSeq d v).pending = s.pending := rfl

@[simp] theorem State.setProfile_resetn (s : State) (d : Dev) (v : Profile) : (s.setProfile d v).resetn = s.resetn := rfl
@[simp] theorem State.setProfile_links (s : State) (d : Dev) (v : Profile) : (s.setProfile d v).links = s.links := rfl
@[simp] theorem State.setProfile_exchs (s : State) (d : Dev) (v : Profile) : (s.setProfile d v).exchs = s.exchs := rfl
@[simp] theorem State.setProfile_notices (s : State) (d : Dev) (v : Profile) : (s.setProfile d v).notices = s.notices := rfl
@[simp] theorem State.setProfile_regions (s : State) (d : Dev) (v : Profile) : (s.setProfile d v).regions = s.regions := rfl
@[simp] theorem State.setProfile_epoch (s : State) (d : Dev) (v : Profile) : (s.setProfile d v).epoch = s.epoch := rfl
@[simp] theorem State.setProfile_admin (s : State) (d : Dev) (v : Profile) : (s.setProfile d v).admin = s.admin := rfl
@[simp] theorem State.setProfile_seqs (s : State) (d : Dev) (v : Profile) : (s.setProfile d v).seqs = s.seqs := rfl
@[simp] theorem State.setProfile_bus (s : State) (d : Dev) (v : Profile) : (s.setProfile d v).bus = s.bus := rfl
@[simp] theorem State.setProfile_settings (s : State) (d : Dev) (v : Profile) : (s.setProfile d v).settings = s.settings := rfl
@[simp] theorem State.setProfile_pending (s : State) (d : Dev) (v : Profile) : (s.setProfile d v).pending = s.pending := rfl

@[simp] theorem State.setBus_resetn (s : State) (v : Bus) : (s.setBus v).resetn = s.resetn := rfl
@[simp] theorem State.setBus_links (s : State) (v : Bus) : (s.setBus v).links = s.links := rfl
@[simp] theorem State.setBus_exchs (s : State) (v : Bus) : (s.setBus v).exchs = s.exchs := rfl
@[simp] theorem State.setBus_notices (s : State) (v : Bus) : (s.setBus v).notices = s.notices := rfl
@[simp] theorem State.setBus_regions (s : State) (v : Bus) : (s.setBus v).regions = s.regions := rfl
@[simp] theorem State.setBus_epoch (s : State) (v : Bus) : (s.setBus v).epoch = s.epoch := rfl
@[simp] theorem State.setBus_admin (s : State) (v : Bus) : (s.setBus v).admin = s.admin := rfl
@[simp] theorem State.setBus_seqs (s : State) (v : Bus) : (s.setBus v).seqs = s.seqs := rfl
@[simp] theorem State.setBus_profiles (s : State) (v : Bus) : (s.setBus v).profiles = s.profiles := rfl
@[simp] theorem State.setBus_settings (s : State) (v : Bus) : (s.setBus v).settings = s.settings := rfl
@[simp] theorem State.setBus_pending (s : State) (v : Bus) : (s.setBus v).pending = s.pending := rfl

/-! ### Reads after an update -/

@[simp] theorem State.link_setLink_same (s : State) (p : Port) (v : Link) : (s.setLink p v).link p = v :=
  PerPort.get_set_same _ _ _
theorem State.link_setLink (s : State) (p q : Port) (v : Link) :
    (s.setLink p v).link q = if q = p then v else s.link q := PerPort.get_set _ _ _ _
@[simp] theorem State.setLink_link (s : State) (p : Port) : s.setLink p (s.link p) = s := by
  cases p <;> rfl
@[simp] theorem State.exch_setExch_same (s : State) (p : Port) (v : Exchange) : (s.setExch p v).exch p = v :=
  PerPort.get_set_same _ _ _
theorem State.exch_setExch (s : State) (p q : Port) (v : Exchange) :
    (s.setExch p v).exch q = if q = p then v else s.exch q := PerPort.get_set _ _ _ _
@[simp] theorem State.noticeList_setNotices_same (s : State) (p : Port) (v : List Notice) :
    (s.setNotices p v).noticeList p = v := PerPort.get_set_same _ _ _
theorem State.noticeList_setNotices (s : State) (p q : Port) (v : List Notice) :
    (s.setNotices p v).noticeList q = if q = p then v else s.noticeList q := PerPort.get_set _ _ _ _
@[simp] theorem State.seq_setSeq_same (s : State) (d : Dev) (v : Sequencer) : (s.setSeq d v).seq d = v :=
  PerDev.get_set_same _ _ _
theorem State.seq_setSeq (s : State) (d e : Dev) (v : Sequencer) :
    (s.setSeq d v).seq e = if e = d then v else s.seq e := PerDev.get_set _ _ _ _
@[simp] theorem State.profile_setProfile_same (s : State) (d : Dev) (v : Profile) :
    (s.setProfile d v).profile d = v := PerDev.get_set_same _ _ _
theorem State.region_setRegion (s : State) (n m : RegionId) (v : Region) :
    (s.setRegion n v).region m = if m = n then v else s.region m := by
  simp only [State.region, State.setRegion, Fin.getElem_fin, Vector.getElem_set]
  by_cases h : m = n
  · simp [h]
  · have : ¬ n.val = m.val := fun e => h (Fin.ext e.symm)
    simp [h, this]
@[simp] theorem State.region_setRegion_same (s : State) (n : RegionId) (v : Region) :
    (s.setRegion n v).region n = v := by
  simp [State.region_setRegion]
theorem Exchange.entry_put (x : Exchange) (k j : Slot) (e : Entry) :
    (x.put k e).entry j = if j = k then e else (x.entry j) := by
  simp only [Exchange.entry, Exchange.put, Fin.getElem_fin, Vector.getElem_set]
  by_cases h : j = k
  · simp [h]
  · have : ¬ k.val = j.val := fun e => h (Fin.ext e.symm)
    simp [h, this]
theorem State.entry_setEntry (s : State) (p q : Port) (k j : Slot) (e : Entry) :
    (s.setEntry p k e).entry q j = if q = p ∧ j = k then e else s.entry q j := by
  unfold State.entry State.setEntry
  rw [State.exch_setExch]
  by_cases h : q = p
  · subst h
    simp only [true_and, if_true]
    exact Exchange.entry_put _ _ _ _
  · simp [h]
@[simp] theorem State.entry_setEntry_same (s : State) (p : Port) (k : Slot) (e : Entry) :
    (s.setEntry p k e).entry p k = e := by
  simp [State.entry_setEntry]

/-! ### Accessors that an update of another field leaves alone -/

@[simp] theorem State.exch_setLink (s : State) (p : Port) (v : Link) (q : Port) : (s.setLink p v).exch q = s.exch q := rfl
@[simp] theorem State.noticeList_setLink (s : State) (p : Port) (v : Link) (q : Port) : (s.setLink p v).noticeList q = s.noticeList q := rfl
@[simp] theorem State.region_setLink (s : State) (p : Port) (v : Link) (m : RegionId) : (s.setLink p v).region m = s.region m := rfl
@[simp] theorem State.seq_setLink (s : State) (p : Port) (v : Link) (e : Dev) : (s.setLink p v).seq e = s.seq e := rfl
@[simp] theorem State.profile_setLink (s : State) (p : Port) (v : Link) (e : Dev) : (s.setLink p v).profile e = s.profile e := rfl
@[simp] theorem State.entry_setLink (s : State) (p : Port) (v : Link) (q : Port) (j : Slot) : (s.setLink p v).entry q j = s.entry q j := rfl

@[simp] theorem State.link_setExch (s : State) (p : Port) (v : Exchange) (q : Port) : (s.setExch p v).link q = s.link q := rfl
@[simp] theorem State.noticeList_setExch (s : State) (p : Port) (v : Exchange) (q : Port) : (s.setExch p v).noticeList q = s.noticeList q := rfl
@[simp] theorem State.region_setExch (s : State) (p : Port) (v : Exchange) (m : RegionId) : (s.setExch p v).region m = s.region m := rfl
@[simp] theorem State.seq_setExch (s : State) (p : Port) (v : Exchange) (e : Dev) : (s.setExch p v).seq e = s.seq e := rfl
@[simp] theorem State.profile_setExch (s : State) (p : Port) (v : Exchange) (e : Dev) : (s.setExch p v).profile e = s.profile e := rfl

@[simp] theorem State.link_setNotices (s : State) (p : Port) (v : List Notice) (q : Port) : (s.setNotices p v).link q = s.link q := rfl
@[simp] theorem State.exch_setNotices (s : State) (p : Port) (v : List Notice) (q : Port) : (s.setNotices p v).exch q = s.exch q := rfl
@[simp] theorem State.region_setNotices (s : State) (p : Port) (v : List Notice) (m : RegionId) : (s.setNotices p v).region m = s.region m := rfl
@[simp] theorem State.seq_setNotices (s : State) (p : Port) (v : List Notice) (e : Dev) : (s.setNotices p v).seq e = s.seq e := rfl
@[simp] theorem State.profile_setNotices (s : State) (p : Port) (v : List Notice) (e : Dev) : (s.setNotices p v).profile e = s.profile e := rfl
@[simp] theorem State.entry_setNotices (s : State) (p : Port) (v : List Notice) (q : Port) (j : Slot) : (s.setNotices p v).entry q j = s.entry q j := rfl

@[simp] theorem State.link_setRegion (s : State) (n : RegionId) (v : Region) (q : Port) : (s.setRegion n v).link q = s.link q := rfl
@[simp] theorem State.exch_setRegion (s : State) (n : RegionId) (v : Region) (q : Port) : (s.setRegion n v).exch q = s.exch q := rfl
@[simp] theorem State.noticeList_setRegion (s : State) (n : RegionId) (v : Region) (q : Port) : (s.setRegion n v).noticeList q = s.noticeList q := rfl
@[simp] theorem State.seq_setRegion (s : State) (n : RegionId) (v : Region) (e : Dev) : (s.setRegion n v).seq e = s.seq e := rfl
@[simp] theorem State.profile_setRegion (s : State) (n : RegionId) (v : Region) (e : Dev) : (s.setRegion n v).profile e = s.profile e := rfl
@[simp] theorem State.entry_setRegion (s : State) (n : RegionId) (v : Region) (q : Port) (j : Slot) : (s.setRegion n v).entry q j = s.entry q j := rfl

@[simp] theorem State.link_setSeq (s : State) (d : Dev) (v : Sequencer) (q : Port) : (s.setSeq d v).link q = s.link q := rfl
@[simp] theorem State.exch_setSeq (s : State) (d : Dev) (v : Sequencer) (q : Port) : (s.setSeq d v).exch q = s.exch q := rfl
@[simp] theorem State.noticeList_setSeq (s : State) (d : Dev) (v : Sequencer) (q : Port) : (s.setSeq d v).noticeList q = s.noticeList q := rfl
@[simp] theorem State.region_setSeq (s : State) (d : Dev) (v : Sequencer) (m : RegionId) : (s.setSeq d v).region m = s.region m := rfl
@[simp] theorem State.profile_setSeq (s : State) (d : Dev) (v : Sequencer) (e : Dev) : (s.setSeq d v).profile e = s.profile e := rfl
@[simp] theorem State.entry_setSeq (s : State) (d : Dev) (v : Sequencer) (q : Port) (j : Slot) : (s.setSeq d v).entry q j = s.entry q j := rfl

@[simp] theorem State.link_setProfile (s : State) (d : Dev) (v : Profile) (q : Port) : (s.setProfile d v).link q = s.link q := rfl
@[simp] theorem State.exch_setProfile (s : State) (d : Dev) (v : Profile) (q : Port) : (s.setProfile d v).exch q = s.exch q := rfl
@[simp] theorem State.noticeList_setProfile (s : State) (d : Dev) (v : Profile) (q : Port) : (s.setProfile d v).noticeList q = s.noticeList q := rfl
@[simp] theorem State.region_setProfile (s : State) (d : Dev) (v : Profile) (m : RegionId) : (s.setProfile d v).region m = s.region m := rfl
@[simp] theorem State.seq_setProfile (s : State) (d : Dev) (v : Profile) (e : Dev) : (s.setProfile d v).seq e = s.seq e := rfl
@[simp] theorem State.entry_setProfile (s : State) (d : Dev) (v : Profile) (q : Port) (j : Slot) : (s.setProfile d v).entry q j = s.entry q j := rfl

@[simp] theorem State.link_setBus (s : State) (v : Bus) (q : Port) : (s.setBus v).link q = s.link q := rfl
@[simp] theorem State.exch_setBus (s : State) (v : Bus) (q : Port) : (s.setBus v).exch q = s.exch q := rfl
@[simp] theorem State.noticeList_setBus (s : State) (v : Bus) (q : Port) : (s.setBus v).noticeList q = s.noticeList q := rfl
@[simp] theorem State.region_setBus (s : State) (v : Bus) (m : RegionId) : (s.setBus v).region m = s.region m := rfl
@[simp] theorem State.seq_setBus (s : State) (v : Bus) (e : Dev) : (s.setBus v).seq e = s.seq e := rfl
@[simp] theorem State.profile_setBus (s : State) (v : Bus) (e : Dev) : (s.setBus v).profile e = s.profile e := rfl
@[simp] theorem State.entry_setBus (s : State) (v : Bus) (q : Port) (j : Slot) : (s.setBus v).entry q j = s.entry q j := rfl

end Sys2Proof.Machine
end

