-- ==== Sys2Proof/Laws/Admission.lean ====
section
/-! SUPPORT. What shifted bits come to (R152), what the receiver makes of a whole frame (R156 to R158), and what a request
comes to when its frame is taken (R138, R139). -/

namespace Sys2Proof.Machine

/-! ### Bits and bytes -/

/-- The bits of a byte spell it (R152). -/
theorem byteOf_bitsOf (b : Byte) : byteOf (bitsOf b) = b := by
  revert b; decide +kernel

/-- A byte's eight bits complete that byte (R152). -/
theorem Link.shiftIn_byte (l : Link) (hs : l.selectLow = true) (hb : l.bits = []) (b : Byte) (rest : List Bool) :
    l.shiftIn (bitsOf b ++ rest) = ((l.shiftIn rest).1, b :: (l.shiftIn rest).2) := by
  have h := byteOf_bitsOf b
  obtain ⟨sl, bs, ph, kd, ct, rx, crc, dc, it, so, fl, mk⟩ := l
  simp only at hs hb
  subst hs hb
  simp only [bitsOf] at h
  simpa [bitsOf, Link.shiftIn, Link.sample] using h

/-- The bits of bytes complete those bytes, and leave the link record as it was (R152). -/
theorem Link.shiftIn_bytes (l : Link) (hs : l.selectLow = true) (hb : l.bits = []) (bytes : List Byte) :
    l.shiftIn (bytes.flatMap bitsOf) = (l, bytes) := by
  induction bytes with
  | nil => rfl
  | cons b rest ih => rw [List.flatMap_cons, Link.shiftIn_byte l hs hb, ih]

theorem State.shifts_iff (s : State) (p : Port) (phase : Phase) : s.shifts p phase = true ↔ s.Shifts p phase := by
  simp only [State.shifts, Bool.and_eq_true, beq_iff_eq, List.isEmpty_iff]
  exact ⟨fun ⟨⟨⟨a, b⟩, c⟩, d⟩ => ⟨a, b, c, d⟩, fun h => ⟨⟨⟨h.resetn, h.select⟩, h.inPhase⟩, h.whole⟩⟩

/-- A byte that a command carries has its effect at its completion (R152). -/
theorem State.byteIn_whole {s : State} {p : Port} {phase : Phase} (h : s.Shifts p phase) (b : Byte)
    (effect : Byte → State → State) : s.byteIn p b effect = effect b s := by
  have h := Link.shiftIn_byte (s.link p) h.select h.whole b []
  rw [List.append_nil] at h
  unfold State.byteIn
  rw [h]
  simp only [Link.shiftIn, List.foldl_cons, List.foldl_nil, State.setLink_link]

/-! ### The receiver -/

/-- Bytes received in two parts. -/
theorem Link.receive_append (l l' : Link) (xs ys : List Byte) (h : l.receive xs = .more l') :
    l.receive (xs ++ ys) = l'.receive ys := by
  induction xs generalizing l with
  | nil => simp only [Link.receive, Received.more.injEq] at h; subst h; rfl
  | cons b xs ih =>
    simp only [List.cons_append, Link.receive] at h ⊢
    cases hb : l.receiveByte b with
    | more m => rw [hb] at h; exact ih m h
    | discarded m => rw [hb] at h; exact absurd h (by simp)
    | taken m => rw [hb] at h; exact absurd h (by simp)

/-- The two bytes of a length, put together again. -/
theorem declared_of_halfBytes (h : Half) :
    ((h.extractLsb' 8 8).setWidth 16 <<< 8) ||| (h.extractLsb' 0 8).setWidth 16 = h := by
  ext i hi
  simp only [BitVec.getElem_or, BitVec.getElem_shiftLeft, BitVec.getElem_setWidth, BitVec.getLsbD_extractLsb']
  by_cases hlt : i < 8
  · simp [hlt, BitVec.getLsbD_eq_getElem hi]
  · have h8 : 8 ≤ i := by omega
    have h7 : i - 8 < 8 := by omega
    have h16 : i - 8 < 16 := by omega
    have e : 8 + (i - 8) = i := by omega
    simp [hlt, h7, e, BitVec.getLsbD_eq_getElem hi]

/-- The link record after the four header bytes of a frame, before the phase moves on. -/
def Link.afterHead (l : Link) (tag kind : Byte) (declared : Half) : Link :=
  { l with rxBuffer := frameHead tag kind declared,
           crc := (frameHead tag kind declared).foldl crcByte crcStart, count := 0, declared := declared }

/-- The header of a frame (R156, R158): an over-long length discards it, 0 goes on to the check bytes. -/
theorem Link.receive_frameHead (l : Link) (h : l.awaitsFrame = true) (tag kind : Byte) (declared : Half) :
    l.receive (frameHead tag kind declared) =
      if Config.maxDeclared < declared.toNat then
        .discarded { (l.afterHead tag kind declared).dropFrame with phase := .ignored }
      else if declared.toNat = 0 then .more { l.afterHead tag kind declared with phase := .putCheck }
      else .more { l.afterHead tag kind declared with phase := .putBody } := by
  simp only [Link.awaitsFrame, Bool.and_eq_true, beq_iff_eq, List.isEmpty_iff] at h
  obtain ⟨⟨⟨⟨-, hp⟩, hc⟩, hb⟩, hcrc⟩ := h
  obtain ⟨sl, bs, ph, kd, ct, rx, crc, dc, it, so, fl, mk⟩ := l
  simp only at hp hc hb hcrc
  subst hp hc hb hcrc
  simp only [frameHead, halfBytes, Link.receive, Link.receiveByte, Nat.reduceAdd, Nat.reduceLT, if_true,
    Nat.reduceEqDiff, if_false, declared_of_halfBytes, Link.afterHead, Link.dropFrame]
  simp only [List.nil_append, List.cons_append, List.foldl]
  by_cases g : Config.maxDeclared < declared.toNat
  · simp only [g, if_true]
  · by_cases g0 : declared.toNat = 0
    · simp only [g0, Nat.not_lt_zero, if_true, if_false]
    · simp only [g, g0, if_false]

/-- The parameters of a frame (R156). -/
theorem Link.receive_body (params : List Byte) (l : Link) (hp : l.phase = .putBody)
    (hc : l.count + params.length = l.declared.toNat) (hne : params ≠ []) :
    l.receive params = .more { l with
      rxBuffer := l.rxBuffer ++ params, crc := params.foldl crcByte l.crc, count := 0, phase := .putCheck } := by
  induction params generalizing l with
  | nil => exact absurd rfl hne
  | cons b rest ih =>
    simp only [List.length_cons] at hc
    by_cases hr : rest = []
    · subst hr
      have : ¬ l.count + 1 < l.declared.toNat := by simp only [List.length_nil] at hc; omega
      simp [Link.receive, Link.receiveByte, hp, this]
    · have hl : 0 < rest.length := List.length_pos_iff.mpr hr
      have : l.count + 1 < l.declared.toNat := by omega
      have hb : l.receiveByte b =
          .more { l with rxBuffer := l.rxBuffer ++ [b], crc := crcByte l.crc b, count := l.count + 1 } := by
        simp [Link.receiveByte, hp, this]
      simp only [Link.receive, hb]
      rw [ih { l with rxBuffer := l.rxBuffer ++ [b], crc := crcByte l.crc b, count := l.count + 1 } hp
        (by simp only; omega) hr]
      simp

/-- The two check bytes of a frame (R156, R157, R158). -/
theorem Link.receive_check (l : Link) (hp : l.phase = .putCheck) (hc : l.count = 0)
    (hb : l.rxBuffer.length = 4 + l.declared.toNat) (check : Half) :
    l.receive (halfBytes check) =
      if halfBytes check = halfBytes l.crc then
        .taken { l with rxBuffer := l.rxBuffer ++ halfBytes check, phase := .ignored, count := 0 }
      else .discarded { ({ l with rxBuffer := l.rxBuffer ++ halfBytes check, count := 2 } : Link).dropFrame with
        phase := .ignored } := by
  have hd : (l.rxBuffer ++ halfBytes check).drop (4 + l.declared.toNat) = halfBytes check := by
    rw [← hb, List.drop_left]
  simp only [halfBytes] at hd ⊢
  simp only [Link.receive, Link.receiveByte, hp, hc, if_true, Nat.zero_add, Nat.one_ne_zero, if_false,
    List.append_assoc, List.cons_append, List.nil_append, hd, halfBytes]
  split <;> simp_all

/-- Bytes of a half are the half. -/
theorem halfBytes_inj {a b : Half} (h : halfBytes a = halfBytes b) : a = b := by
  simp only [halfBytes, List.cons.injEq, and_true] at h
  rw [← declared_of_halfBytes a, ← declared_of_halfBytes b, h.1, h.2]

theorem length_halfBytes (h : Half) : (halfBytes h).length = 2 := rfl

theorem length_frameBody (tag kind : Byte) (params : List Byte) :
    (frameBody tag kind params).length = 4 + params.length := by
  simp [frameBody, frameHead, length_halfBytes]; omega

theorem toNat_declared (params : List Byte) (h : params.length ≤ Config.maxDeclared) :
    (BitVec.ofNat 16 params.length : Half).toNat = params.length := by
  simp only [Config.maxDeclared] at h
  simp only [BitVec.toNat_ofNat]; omega

/-- The link record when a frame's body is complete. -/
theorem Link.receive_frameBody (l : Link) (h : l.awaitsFrame = true) (tag kind : Byte) (params : List Byte)
    (hl : params.length ≤ Config.maxDeclared) :
    l.receive (frameBody tag kind params) = .more { l with
      phase := .putCheck, count := 0, rxBuffer := frameBody tag kind params,
      crc := crc16 (frameBody tag kind params), declared := BitVec.ofNat 16 params.length } := by
  have hd := toNat_declared params hl
  have hh := Link.receive_frameHead l h tag kind (BitVec.ofNat 16 params.length)
  rw [if_neg (by rw [hd]; omega)] at hh
  by_cases hp : params = []
  · subst hp
    rw [if_pos (by simp)] at hh
    simp only [frameBody, List.append_nil]
    rw [hh]
    simp [Link.afterHead, crc16]
  · have hpos : 0 < params.length := List.length_pos_iff.mpr hp
    rw [if_neg (by rw [hd]; omega)] at hh
    simp only [frameBody]
    rw [Link.receive_append _ _ _ _ hh, Link.receive_body _ _ rfl (by simp [Link.afterHead, hd]) hp]
    simp [Link.afterHead, crc16, List.foldl_append]

/-- A whole frame with matching check bytes is taken (R156, R157). -/
theorem Link.receive_frameGood (l : Link) (h : l.awaitsFrame = true) (tag kind : Byte) (params : List Byte)
    (hl : params.length ≤ Config.maxDeclared) :
    l.receive (frameGood tag kind params) = .taken (l.afterFrame tag kind params) := by
  unfold frameGood frameWith
  rw [Link.receive_append _ _ _ _ (Link.receive_frameBody l h tag kind params hl),
    Link.receive_check _ rfl rfl (by simp only [length_frameBody, toNat_declared params hl])]
  rw [if_pos rfl]
  simp [Link.afterFrame, frameGood, frameWith]

/-- A whole frame with other check bytes is discarded (R158). -/
theorem Link.receive_frameWith (l : Link) (h : l.awaitsFrame = true) (tag kind : Byte) (params : List Byte)
    (hl : params.length ≤ Config.maxDeclared) (check : Half) (hc : crc16 (frameBody tag kind params) ≠ check) :
    l.receive (frameWith tag kind params check) = .discarded { l with
      phase := .ignored, count := 0, rxBuffer := [], crc := crc16 (frameBody tag kind params),
      declared := BitVec.ofNat 16 params.length, flags := { l.flags with frameError := true } } := by
  unfold frameWith
  rw [Link.receive_append _ _ _ _ (Link.receive_frameBody l h tag kind params hl),
    Link.receive_check _ rfl rfl (by simp only [length_frameBody, toNat_declared params hl])]
  rw [if_neg (fun e => hc (halfBytes_inj e).symm)]
  simp [Link.dropFrame]

/-! ### What a request comes to -/

theorem whenDue_true {due : Bool} {effect : State → State} {s : State} (h : due = true) :
    whenDue due effect s = .next (effect s) := by
  unfold whenDue; rw [if_pos h]

theorem whenDue_false {due : Bool} {effect : State → State} {s : State} (h : due = false) :
    whenDue due effect s = .next s := by
  unfold whenDue; rw [h]; rfl

/-- An accepted frame is not over-long. -/
theorem length_of_accepts {kind : Byte} {n : Nat} (h : acceptsFrame kind n = true) : n ≤ Config.maxDeclared := by
  unfold acceptsFrame at h
  split at h <;> simp only [beq_iff_eq, Bool.and_eq_true, decide_eq_true_eq, Bool.false_eq_true] at h <;>
    (simp only [Config.maxDeclared]; omega)

/-- Every kind but PROGRAM accepts its own parameters, whatever their values (R190). -/
theorem accepts_of_not_program (q : Request) (h : ∀ r o f e b, q ≠ .program r o f e b)
    (u : ∀ kind params, q ≠ .unread kind params) :
    acceptsFrame q.code q.wire.length = true := by
  cases q
  case findLabel l => simp [Request.code, Request.wire, LabelField.wire, acceptsFrame]
  case define d b n l rr wr t =>
    simp [Request.code, Request.wire, LabelField.wire, acceptsFrame, halfBytes, wordBytes]
  case program r o f e b => exact absurd rfl (h r o f e b)
  case unread kind params => exact absurd rfl (u kind params)
  all_goals rfl

/-- A PROGRAM is accepted with at most 256 data bytes (R190). -/
theorem accepts_program (r : Byte) (o : Word) (f : Byte) (e : EpochField) (b : List Byte) (h : b.length ≤ 256) :
    acceptsFrame (Request.program r o f e b).code (Request.program r o f e b).wire.length = true := by
  have : (Request.program r o f e b).wire.length = 9 + b.length := by
    simp only [Request.wire, wordBytes, EpochField.wire, halfBytes, List.length_cons, List.length_append,
      List.length_nil]
    omega
  rw [this]
  show (9 ≤ 9 + b.length && 9 + b.length ≤ 265) = true
  simp only [Bool.and_eq_true, decide_eq_true_eq]
  omega

theorem frameDue_iff (s : State) (p : Port) :
    s.frameDue p = true ↔ s.resetn = true ∧ (s.link p).awaitsFrame = true := by
  unfold State.frameDue; rw [Bool.and_eq_true]

/-- A link that waits for a frame has its select line low and no bit of a byte in. -/
theorem Link.whole_of_awaits {l : Link} (h : l.awaitsFrame = true) : l.selectLow = true ∧ l.bits = [] := by
  simp only [Link.awaitsFrame, Bool.and_eq_true, List.isEmpty_iff] at h
  exact ⟨h.1.1.1.1.1, h.1.1.1.1.2⟩

/-- The bytes of a frame reach the receiver as they are (R152). -/
theorem receiveFrame_bytes (s : State) (p : Port) (h : (s.link p).awaitsFrame = true) (bytes : List Byte)
    (next : State → State) :
    s.receiveFrame p bytes next = match (s.link p).receive bytes with
      | .taken l => next (s.setLink p l)
      | .discarded l => s.setLink p l
      | .more _ => s := by
  unfold State.receiveFrame
  rw [Link.shiftIn_bytes _ (Link.whole_of_awaits h).1 (Link.whole_of_awaits h).2] <;> rfl

/-- A frame that arrives is taken by the receiver and goes on to the tests of R138. -/
theorem receiveFrame_frameGood (s : State) (p : Port) (h : (s.link p).awaitsFrame = true) (tag kind : Byte)
    (params : List Byte) (hl : params.length ≤ Config.maxDeclared) (next : State → State) :
    s.receiveFrame p (frameGood tag kind params) next = next (s.setLink p ((s.link p).afterFrame tag kind params)) := by
  rw [receiveFrame_bytes s p h]
  rw [Link.receive_frameGood _ h tag kind params hl]

/-- A request whose frame arrives goes to the tests of R138. -/
theorem request_received {s : State} {p : Port} {q : Request} (h : s.Receives p q) (tag : Byte)
    (act : Slot → State → State) :
    request p tag q act s = .next ((s.received p tag q).admitFrame p tag q.code (s.deviceField q) (regionField q)
      (some q) (payloadOf q) act) := by
  unfold request
  rw [whenDue_true (by rw [Bool.and_eq_true, frameDue_iff]; exact ⟨⟨h.resetn, h.awaits⟩, h.fits⟩),
    receiveFrame_frameGood s p h.awaits tag _ _ (length_of_accepts h.fits)]
  rfl

/-- A request that passes tests 1 to 5 of R138 acts on the state in which its entry is taken (R139, R142). -/
theorem request_admitted {s : State} {p : Port} {tag : Byte} {q : Request} {k : Slot} (h : s.Admits p tag q k)
    (act : Slot → State → State) : request p tag q act s = .next (act k (s.admitted p tag q k)) := by
  rw [request_received h.toReceives]
  unfold State.admitFrame
  have e : (s.received p tag q).exch p = s.exch p := rfl
  rw [if_neg h.tagged, e, h.tagFree, h.vacant]
  rfl

@[simp] theorem State.region_admitted (s : State) (p : Port) (tag : Byte) (q : Request) (k : Slot) (n : RegionId) :
    (s.admitted p tag q k).region n = s.region n := rfl
@[simp] theorem State.seq_admitted (s : State) (p : Port) (tag : Byte) (q : Request) (k : Slot) (d : Dev) :
    (s.admitted p tag q k).seq d = s.seq d := rfl
@[simp] theorem State.profile_admitted (s : State) (p : Port) (tag : Byte) (q : Request) (k : Slot) (d : Dev) :
    (s.admitted p tag q k).profile d = s.profile d := rfl
@[simp] theorem State.settings_admitted (s : State) (p : Port) (tag : Byte) (q : Request) (k : Slot) :
    (s.admitted p tag q k).settings = s.settings := rfl
@[simp] theorem State.epoch_admitted (s : State) (p : Port) (tag : Byte) (q : Request) (k : Slot) :
    (s.admitted p tag q k).epoch = s.epoch := rfl
@[simp] theorem State.admin_admitted (s : State) (p : Port) (tag : Byte) (q : Request) (k : Slot) :
    (s.admitted p tag q k).admin = s.admin := rfl
@[simp] theorem State.noticeList_admitted (s : State) (p : Port) (tag : Byte) (q : Request) (k : Slot) (r : Port) :
    (s.admitted p tag q k).noticeList r = s.noticeList r := rfl
@[simp] theorem State.exch_admitted (s : State) (p : Port) (tag : Byte) (q : Request) (k : Slot) :
    (s.admitted p tag q k).exch p =
      (s.exch p).take k tag q.code (s.deviceField q) (regionField q) (some q) (payloadOf q) :=
  State.exch_setExch_same _ _ _

end Sys2Proof.Machine
end

