-- ==== Sys2Proof/Laws/Exchange.lean ====
section
/-! SUPPORT. What the operations on an Exchange keep. -/

namespace Sys2Proof.Machine

/-- Two entries hold the same request: what is written at admission (R139). -/
structure Entry.SameRequest (e f : Entry) : Prop where
  tag     : f.tag = e.tag
  kind    : f.kind = e.kind
  number  : f.number = e.number
  device  : f.device = e.device
  region  : f.region = e.region
  request : f.request = e.request

theorem Entry.SameRequest.refl (e : Entry) : e.SameRequest e := ⟨rfl, rfl, rfl, rfl, rfl, rfl⟩

theorem Entry.SameRequest.trans {a b c : Entry} (h : a.SameRequest b) (g : b.SameRequest c) : a.SameRequest c :=
  ⟨g.tag.trans h.tag, g.kind.trans h.kind, g.number.trans h.number, g.device.trans h.device,
   g.region.trans h.region, g.request.trans h.request⟩

/-- What an action inside the part keeps of an Exchange: the counter, every ANSWERED and VACANT entry, the request of every
entry that is not DRAINING (R139), the form, and the Answer List as a first part of the new one (R137, R144, R145). -/
structure Exchange.Keeps (x y : Exchange) : Prop where
  counter : y.counter = x.counter
  stays   : ∀ k : Slot, (x.entry k).state ≠ .draining →
              (y.entry k).state ≠ .draining ∧ ((y.entry k).state = .vacant → (x.entry k).state = .vacant) ∧
              (x.entry k).SameRequest (y.entry k)
  settled : ∀ k : Slot, (x.entry k).state = .answered ∨ (x.entry k).state = .vacant → (y.entry k) = (x.entry k)
  form    : x.WellFormed → y.WellFormed ∧ x.answers <+: y.answers

theorem Exchange.Keeps.refl (x : Exchange) : x.Keeps x :=
  ⟨rfl, fun _ h => ⟨h, id, .refl _⟩, fun _ _ => rfl, fun h => ⟨h, List.prefix_refl _⟩⟩

theorem Exchange.Keeps.trans {x y z : Exchange} (h : x.Keeps y) (g : y.Keeps z) : x.Keeps z where
  counter := g.counter.trans h.counter
  stays k hk :=
    have a := h.stays k hk
    have b := g.stays k a.1
    ⟨b.1, fun v => a.2.1 (b.2.1 v), a.2.2.trans b.2.2⟩
  settled k hk := by
    have e := h.settled k hk
    rw [← e]
    exact g.settled k (by rw [e]; exact hk)
  form w := ⟨(g.form (h.form w).1).1, (h.form w).2.trans (g.form (h.form w).1).2⟩

/-- An entry that is neither VACANT nor ANSWERED takes a new value of that kind, with its tag. -/
theorem Exchange.put_keeps (x : Exchange) (k : Slot) (e : Entry)
    (hv : (x.entry k).state ≠ .vacant) (ha : (x.entry k).state ≠ .answered)
    (ev : e.state ≠ .vacant) (ea : e.state ≠ .answered) (er : (x.entry k).SameRequest e)
    (ed : e.state = .draining ↔ (x.entry k).state = .draining)
    (eh : e.state.holdsTag = true → (x.entry k).state.holdsTag = true) : x.Keeps (x.put k e) where
  counter := rfl
  stays j hj := by
    rw [Exchange.entry_put]
    split
    · rename_i h; subst h; exact ⟨fun g => hj (ed.mp g), fun g => absurd g ev, er⟩
    · exact ⟨hj, id, .refl _⟩
  settled j hj := by
    rw [Exchange.entry_put]
    split
    · rename_i hjk; subst hjk; exact absurd hj (by simp [hv, ha])
    · rfl
  form w := by
    refine ⟨⟨w.orderOnce, fun j => ?_, w.answersOnce, fun j => ?_, fun j hj => ?_, fun j hj => ?_,
      fun i j hij hi hj => ?_⟩, List.prefix_refl _⟩
    · rw [Exchange.entry_put]
      refine (w.orderLists j).trans ?_
      split
      · rename_i h; subst h; exact ⟨fun _ => ev, fun _ => hv⟩
      · exact Iff.rfl
    · rw [Exchange.entry_put]
      refine (w.answersList j).trans ?_
      split
      · rename_i h; subst h; exact ⟨fun h => absurd h ha, fun h => absurd h ea⟩
      · exact Iff.rfl
    · rw [Exchange.entry_put] at hj ⊢
      split at hj
      · exact absurd hj ev
      · rename_i h; rw [if_neg h]; exact w.vacantClear j hj
    · rw [Exchange.entry_put] at hj ⊢
      split at hj
      · rename_i h; subst h; rw [if_pos rfl, er.tag]; exact w.tagsHeld j (eh hj)
      · rename_i h; rw [if_neg h]; exact w.tagsHeld j hj
    · rw [Exchange.entry_put] at hi hj
      simp only [Exchange.entry_put]
      have key : ∀ i, (if i = k then e else (x.entry i)).tag = (x.entry i).tag := by
        intro i; split
        · rename_i h; subst h; exact er.tag
        · rfl
      rw [key, key]
      apply w.tagsApart i j hij
      · split at hi
        · rename_i h; subst h; exact eh hi
        · exact hi
      · split at hj
        · rename_i h; subst h; exact eh hj
        · exact hj

theorem Exchange.entry_answered (x : Exchange) (k j : Slot) (e : Entry) (answers : List Slot) :
    Exchange.entry { x with entries := x.entries.set k e, answers := answers } j = if j = k then e else x.entry j :=
  Exchange.entry_put x k j e

/-- The answer of an entry (R144). -/
theorem Exchange.answer_keeps (x : Exchange) (k : Slot) (result : Result) (values : Values)
    (payload : Option (List Byte)) : x.Keeps (x.answer k result values payload) := by
  unfold Exchange.answer
  by_cases ho : (x.entry k).state.open = true
  · simp only [ho, if_true]
    have hv : (x.entry k).state ≠ .vacant := by intro h; rw [h] at ho; exact absurd ho (by decide)
    have ha : (x.entry k).state ≠ .answered := by intro h; rw [h] at ho; exact absurd ho (by decide)
    have hh : (x.entry k).state.holdsTag = true := by
      cases hs : (x.entry k).state <;> rw [hs] at ho <;> first | rfl | exact absurd ho (by decide)
    refine ⟨rfl, fun j hj => ?_, fun j hj => ?_, fun w => ⟨⟨w.orderOnce, fun j => ?_, ?_, fun j => ?_, fun j hj => ?_, fun j hj => ?_,
      fun i j hij hi hj => ?_⟩, List.prefix_append _ _⟩⟩
    · rw [entry_answered]
      split
      · rename_i h; subst h
        exact ⟨fun g => absurd g (by simp), fun g => absurd g (by simp), ⟨rfl, rfl, rfl, rfl, rfl, rfl⟩⟩
      · exact ⟨hj, id, .refl _⟩
    · rw [entry_answered]
      split
      · rename_i h; subst h; exact absurd hj (by simp [hv, ha])
      · rfl
    · rw [entry_answered]
      refine (w.orderLists j).trans ?_
      split
      · rename_i h; subst h; simp [hv]
      · exact Iff.rfl
    · refine List.nodup_append.mpr ⟨w.answersOnce, List.nodup_singleton _, ?_⟩
      intro a h b hb e
      rw [List.mem_singleton] at hb
      subst hb; subst e
      exact ha ((w.answersList a).mp h)
    · rw [entry_answered, List.mem_append, List.mem_singleton]
      split
      · rename_i h; subst h; simp
      · rename_i h; simp only [h, or_false]; exact w.answersList j
    · rw [entry_answered] at hj ⊢
      split at hj
      · exact absurd hj (by simp)
      · rename_i h; rw [if_neg h]; exact w.vacantClear j hj
    · rw [entry_answered] at hj ⊢
      split at hj
      · rename_i h; subst h; rw [if_pos rfl]; exact w.tagsHeld j hh
      · rename_i h; rw [if_neg h]; exact w.tagsHeld j hj
    · rw [entry_answered] at hi hj
      rw [entry_answered, entry_answered]
      have key : ∀ (i : Slot) (e' : Entry), e'.tag = (x.entry k).tag →
          (if i = k then e' else (x.entry i)).tag = (x.entry i).tag := by
        intro i e' he; split
        · rename_i h; subst h; exact he
        · rfl
      rw [key i, key j]
      · apply w.tagsApart i j hij
        · split at hi
          · rename_i h; subst h; exact hh
          · exact hi
        · split at hj
          · rename_i h; subst h; exact hh
          · exact hj
      · rfl
      · rfl
  · simp only [ho]
    exact Exchange.Keeps.refl x

/-- A slot leaves the lists with its entry (R145, R149): the form is kept. -/
theorem Exchange.vacate_form (x : Exchange) (k : Slot) (w : x.WellFormed) : (x.vacate k).WellFormed := by
  have key : ∀ j : Slot, (x.vacate k).entry j = if j = k then Entry.vacant else (x.entry j) :=
    fun j => Exchange.entry_put x k j Entry.vacant
  refine ⟨w.orderOnce.erase _, fun j => ?_, w.answersOnce.erase _, fun j => ?_, fun j hj => ?_, fun j hj => ?_,
    fun i j hij hi hj => ?_⟩
  · rw [key]
    show j ∈ x.order.erase k ↔ _
    rw [w.orderOnce.mem_erase_iff]
    split
    · rename_i h; simp [h, Entry.vacant]
    · rename_i h; simp only [ne_eq, h, not_false_eq_true, true_and]; exact w.orderLists j
  · rw [key]
    show j ∈ x.answers.erase k ↔ _
    rw [w.answersOnce.mem_erase_iff]
    split
    · rename_i h; simp [h, Entry.vacant]
    · rename_i h; simp only [ne_eq, h, not_false_eq_true, true_and]; exact w.answersList j
  · rw [key] at hj ⊢
    split at hj
    · rename_i h; rw [if_pos h]
    · rename_i h; rw [if_neg h]; exact w.vacantClear j hj
  · rw [key] at hj ⊢
    split at hj
    · exact absurd hj (by simp [Entry.vacant, EntryState.holdsTag])
    · rename_i h; rw [if_neg h]; exact w.tagsHeld j hj
  · rw [key] at hi hj
    rw [key, key]
    split at hi
    · exact absurd hi (by simp [Entry.vacant, EntryState.holdsTag])
    · split at hj
      · exact absurd hj (by simp [Entry.vacant, EntryState.holdsTag])
      · rename_i h h'; rw [if_neg h, if_neg h']; exact w.tagsApart i j hij hi hj

/-- A DRAINING entry becomes VACANT (R149). -/
theorem Exchange.vacate_keeps (x : Exchange) (k : Slot) (h : (x.entry k).state = .draining) :
    x.Keeps (x.vacate k) where
  counter := rfl
  stays j hj := by
    show ((x.put k Entry.vacant).entry j).state ≠ _ ∧ (((x.put k Entry.vacant).entry j).state = _ → _) ∧
      Entry.SameRequest _ ((x.put k Entry.vacant).entry j)
    rw [Exchange.entry_put]
    split
    · rename_i e; subst e; exact absurd h hj
    · exact ⟨hj, id, .refl _⟩
  settled j hj := by
    show (x.put k Entry.vacant).entry j = _
    rw [Exchange.entry_put]
    split
    · rename_i e; subst e; rw [h] at hj; exact absurd hj (by simp)
    · rfl
  form w := by
    refine ⟨Exchange.vacate_form x k w, ?_⟩
    show x.answers <+: x.answers.erase k
    rw [List.erase_of_not_mem]
    intro hk
    have := (w.answersList k).mp hk
    rw [h] at this
    exact absurd this (by simp)

/-- The answers of an action put in admission order (R144). -/
theorem Exchange.regroup_keeps {x y : Exchange} (h : x.Keeps y) : x.Keeps (x.regroup y) where
  counter := h.counter
  stays k hk := h.stays k hk
  settled k hk := h.settled k hk
  form w := by
    obtain ⟨wy, pre⟩ := h.form w
    have sub : ∀ k, k ∈ x.answers → k ∈ y.answers := fun k hk => pre.subset hk
    have mem : ∀ k : Slot, k ∈ (x.regroup y).answers ↔ k ∈ y.answers := by
      intro k
      simp only [Exchange.regroup, List.mem_append, List.mem_filter, Bool.and_eq_true, List.contains_iff_mem,
        Bool.not_eq_true', ← Bool.not_eq_true]
      constructor
      · rintro (h | ⟨_, h, _⟩)
        · exact sub k h
        · exact h
      · intro hk
        by_cases hx : k ∈ x.answers
        · exact .inl hx
        · refine .inr ⟨(wy.orderLists k).mpr ?_, hk, hx⟩
          have := (wy.answersList k).mp hk
          rw [this]; simp
    refine ⟨⟨wy.orderOnce, wy.orderLists, ?_, fun k => (mem k).trans (wy.answersList k), wy.vacantClear, wy.tagsHeld,
      wy.tagsApart⟩, List.prefix_append _ _⟩
    refine List.nodup_append.mpr ⟨w.answersOnce, wy.orderOnce.filter _, ?_⟩
    intro a ha b hb e
    subst e
    simp only [List.mem_filter, Bool.and_eq_true, Bool.not_eq_true', ← Bool.not_eq_true,
      List.contains_iff_mem] at hb
    exact hb.2.2 ha

/-- The Exchange after reset (R134). -/
theorem Exchange.initial_form : Exchange.initial.WellFormed := by
  have key : ∀ k : Slot, Exchange.initial.entry k = Entry.vacant := by decide +kernel
  refine ⟨List.nodup_nil, fun k => ?_, List.nodup_nil, fun k => ?_, fun k _ => key k, fun k hk => ?_,
    fun j k _ hj _ => ?_⟩
  · rw [key]; simp [Exchange.initial, Entry.vacant]
  · rw [key]; simp [Exchange.initial, Entry.vacant]
  · rw [key] at hk; exact absurd hk (by simp [Entry.vacant, EntryState.holdsTag])
  · rw [key] at hj; exact absurd hj (by simp [Entry.vacant, EntryState.holdsTag])

/-- A frame takes a VACANT slot under a tag that is not 0 and not held (R138, R139). -/
theorem Exchange.take_form (x : Exchange) (w : x.WellFormed) (k : Slot) (hk : (x.entry k).state = .vacant)
    (tag kind : Byte) (ht : tag ≠ 0#8) (hh : x.tagHeld tag = false) (device : Option Dev) (region : Option RegionId)
    (request : Option Request) (payload : List Byte) :
    (x.take k tag kind device region request payload).WellFormed := by
  have free : ∀ j : Slot, (x.entry j).state.holdsTag = true → (x.entry j).tag ≠ some tag := by
    intro j hj e
    have : x.tagHeld tag = true := by
      refine List.any_eq_true.mpr ⟨j, mem_allSlots j, ?_⟩
      simp only [Bool.and_eq_true, beq_iff_eq]
      exact ⟨hj, e⟩
    rw [hh] at this
    exact absurd this (by simp)
  obtain ⟨e, he⟩ : ∃ e : Entry, e =
      { Entry.vacant with
        state := .waiting, tag := some tag, kind := some kind, number := some x.counter, device := device,
        region := region, request := request, payload := payload } := ⟨_, rfl⟩
  have es : e.state = .waiting := by rw [he]
  have et : e.tag = some tag := by rw [he]
  have key : ∀ j : Slot, (x.take k tag kind device region request payload).entry j =
      if j = k then e else (x.entry j) := by
    intro j
    rw [he]
    exact Exchange.entry_put x k j _
  refine ⟨?_, fun j => ?_, w.answersOnce, fun j => ?_, fun j hj => ?_, fun j hj => ?_, fun i j hij hi hj => ?_⟩
  · refine List.nodup_append.mpr ⟨w.orderOnce, List.nodup_singleton _, ?_⟩
    intro a h b hb e
    rw [List.mem_singleton] at hb
    subst hb; subst e
    exact (w.orderLists a).mp h hk
  · rw [key]
    show j ∈ x.order ++ [k] ↔ _
    rw [List.mem_append, List.mem_singleton]
    split
    · rename_i h; simp [h, es]
    · rename_i h; simp only [h, or_false]; exact w.orderLists j
  · rw [key]
    refine (w.answersList j).trans ?_
    split
    · rename_i h; subst h; rw [hk, es]; simp
    · exact Iff.rfl
  · rw [key] at hj ⊢
    split at hj
    · rw [es] at hj; exact absurd hj (by simp)
    · rename_i h; rw [if_neg h]; exact w.vacantClear j hj
  · rw [key] at hj ⊢
    split at hj
    · rename_i h; rw [if_pos h]; exact ⟨tag, et, ht⟩
    · rename_i h; rw [if_neg h]; exact w.tagsHeld j hj
  · rw [key] at hi hj
    rw [key, key]
    by_cases h1 : i = k
    · have h2 : j ≠ k := fun h => hij (h1.trans h.symm)
      rw [if_neg h2] at hj
      rw [if_pos h1, if_neg h2, et]
      exact fun h => free j hj h.symm
    · rw [if_neg h1] at hi
      rw [if_neg h1]
      by_cases h2 : j = k
      · rw [if_pos h2, et]; exact free i hi
      · rw [if_neg h2] at hj
        rw [if_neg h2]
        exact w.tagsApart i j hij hi hj

/-- The port reset at an Exchange (R150). -/
theorem Exchange.portReset_form (x : Exchange) (w : x.WellFormed) : x.portReset.WellFormed := by
  have key : ∀ k : Slot, x.portReset.entry k = (x.entry k).portReset := by
    intro k
    simp only [Exchange.entry, Exchange.portReset, Fin.getElem_fin, Vector.getElem_map]
  have st : ∀ e : Entry, e.portReset.state = if e.state.running then .draining else .vacant := by
    intro e
    unfold Entry.portReset
    cases h : e.state <;> simp [EntryState.running, Entry.vacant, h]
  have nohold : ∀ k : Slot, (x.portReset.entry k).state.holdsTag = false := by
    intro k
    rw [key, st]; split <;> rfl
  refine ⟨w.orderOnce.filter _, fun k => ?_, List.nodup_nil, fun k => ?_, fun k hk => ?_, fun k hk => ?_,
    fun j k _ hj _ => ?_⟩
  · rw [key, st]
    show k ∈ x.order.filter (fun k => (x.entry k).state.running) ↔ _
    rw [List.mem_filter, w.orderLists k]
    by_cases h : (x.entry k).state.running = true
    · rw [if_pos h]
      simp only [h, and_true]
      constructor
      · intro _; simp
      · intro _ e; rw [e] at h; exact absurd h (by decide)
    · rw [if_neg h]
      exact ⟨fun g => absurd g.2 h, fun g => absurd rfl g⟩
  · rw [key, st]
    show k ∈ ([] : List Slot) ↔ _
    split <;> simp
  · rw [key] at hk ⊢
    rw [st] at hk
    unfold Entry.portReset
    cases h : (x.entry k).state <;> rw [h] at hk <;> first | rfl | exact absurd hk (by decide)
  · rw [nohold k] at hk; exact absurd hk (by simp)
  · rw [nohold j] at hj; exact absurd hj (by simp)

end Sys2Proof.Machine
end

