-- ==== Sys2Proof/Laws/Region.lean ====
section
/-! SUPPORT. What the lease operations keep of a region record. -/

namespace Sys2Proof.Machine

/-- What an action inside the part keeps of a region record: its form, and no port has a larger share of it (R28). -/
def Region.Keeps (r q : Region) : Prop := r.WellFormed → q.WellFormed ∧ ∀ p, q.share p ≤ r.share p

theorem Region.Keeps.refl (r : Region) : r.Keeps r := fun h => ⟨h, fun _ => le_rfl⟩

theorem Region.Keeps.trans {a b c : Region} (h : a.Keeps b) (g : b.Keeps c) : a.Keeps c := fun w =>
  ⟨(g (h w).1).1, fun p => ((g (h w).1).2 p).trans ((h w).2 p)⟩

/-- A FREE record (R1, R23). -/
theorem Region.free_form : Region.free.WellFormed where
  holderWhen := rfl
  grantedWhen := rfl
  noRemaining _ := rfl
  queueWhen _ := rfl
  queueShort := Nat.zero_le _
  queueOnce := List.nodup_nil
  queueRights _ h := absurd h (by simp [Region.free])
  holderApart _ h := absurd h (by simp [Region.free])
  holderRight _ h := absurd h (by simp [Region.free])

theorem Region.free_share (p : Port) : Region.free.share p = 0 := rfl

/-- A record that differs only in fields outside the form. -/
theorem Region.keeps_of_same {r q : Region} (h1 : q.state = r.state) (h2 : q.holder = r.holder)
    (h3 : q.granted = r.granted) (h4 : q.remaining = r.remaining) (h5 : q.queue = r.queue)
    (h6 : q.writeRights = r.writeRights) : r.Keeps q := by
  intro w
  refine ⟨⟨?_, ?_, ?_, ?_, ?_, ?_, ?_, ?_, ?_⟩, fun p => by simp [Region.share, h2, h5]⟩
  · rw [h1, h2]; exact w.holderWhen
  · rw [h2, h3]; exact w.grantedWhen
  · rw [h2, h4]; exact w.noRemaining
  · rw [h1, h5]; exact w.queueWhen
  · rw [h5]; exact w.queueShort
  · rw [h5]; exact w.queueOnce
  · rw [h5, h6]; exact w.queueRights
  · rw [h2, h5]; exact w.holderApart
  · rw [h2, h6]; exact w.holderRight

theorem Region.leaseOver_keeps (x : Settings) (r : Region) : r.Keeps (r.leaseOver x) := by
  intro w
  unfold Region.leaseOver
  cases hq : r.queue with
  | nil =>
    refine ⟨⟨rfl, rfl, fun _ => rfl, fun _ => hq, ?_, ?_, ?_, fun p h => absurd h (by simp [Region.leaseEnded]),
      fun p h => absurd h (by simp [Region.leaseEnded])⟩, fun p => ?_⟩
    · simp [Region.leaseEnded, hq]
    · simp [Region.leaseEnded, hq]
    · simp [Region.leaseEnded, hq]
    · simp [Region.leaseEnded, Region.share, hq]
  | cons c rest =>
    have ws := w.queueShort
    have wo := w.queueOnce
    have wr := w.queueRights
    rw [hq] at ws wo wr
    simp only [List.map_cons, List.nodup_cons, List.mem_map, not_exists, not_and, List.length_cons] at wo ws
    refine ⟨⟨rfl, rfl, fun h => absurd h (by simp), fun h => absurd h (by simp), ?_, wo.2,
      fun d hd => wr d (List.mem_cons_of_mem _ hd), ?_, ?_⟩, fun p => ?_⟩
    · show rest.length ≤ _; omega
    · intro p hp d hd
      simp only [Option.some.injEq] at hp
      intro e
      exact wo.1 d hd (e.trans hp.symm)
    · intro p hp
      simp only [Option.some.injEq] at hp
      rw [← hp]
      exact wr c (List.mem_cons_self ..)
    · simp only [Region.share, hq, List.any_cons, Option.some.injEq]
      by_cases hp : c.port = p
      · have : rest.any (fun d => d.port == p) = false := by
          rw [Bool.eq_false_iff]
          intro h
          obtain ⟨d, hd, e⟩ := List.any_eq_true.mp h
          exact wo.1 d hd ((beq_iff_eq.mp e).trans hp.symm)
        simp [hp, this]
      · simp [hp]

/-- The record of a region whose lease has been lost while a write of the ex-holder goes on (R42). -/
theorem Region.closing_keeps (r : Region) : r.Keeps { r.leaseEnded with state := .closing } := by
  intro w
  refine ⟨⟨rfl, rfl, fun _ => rfl, fun h => absurd h (by simp), w.queueShort, w.queueOnce, w.queueRights,
    fun p h => absurd h (by simp [Region.leaseEnded]), fun p h => absurd h (by simp [Region.leaseEnded])⟩, fun p => ?_⟩
  simp [Region.share, Region.leaseEnded]

/-- A claim record leaves a queue (R32). -/
theorem Region.withoutClaim_keeps (r : Region) (p : Port) : r.Keeps (r.withoutClaim p) := by
  intro w
  have sub : List.Sublist (r.withoutClaim p).queue r.queue := List.filter_sublist
  refine ⟨⟨w.holderWhen, w.grantedWhen, w.noRemaining, fun h => ?_, sub.length_le.trans w.queueShort,
    w.queueOnce.sublist (sub.map _), fun c hc => w.queueRights c (sub.subset hc),
    fun q hq c hc => w.holderApart q hq c (sub.subset hc), w.holderRight⟩, fun q => ?_⟩
  · have := w.queueWhen h
    simp [Region.withoutClaim, this]
  · unfold Region.share
    have : (r.withoutClaim p).queue.any (fun c => c.port == q) = true → r.queue.any (fun c => c.port == q) = true := by
      intro h
      obtain ⟨d, hd, e⟩ := List.any_eq_true.mp h
      exact List.any_eq_true.mpr ⟨d, sub.subset hd, e⟩
    by_cases h : (r.withoutClaim p).queue.any (fun c => c.port == q) = true
    · have g := this h
      simp only [h, g, if_true]
      exact le_rfl
    · simp only [h]
      show _ ≤ (if r.holder = some q then 1 else 0) + _
      exact Nat.add_le_add le_rfl (Nat.zero_le _)

end Sys2Proof.Machine
end

