-- ==== Sys2Proof/Laws/Keeps.lean ====
section
/-! SUPPORT. What the shared operations keep: one lemma for each. -/

namespace Sys2Proof.Machine

/-- What an action inside the part keeps of the state outside the region records: the links, the settings, the profiles, the
administrator, RESETN and the queue, and in each Exchange and Notice List what Exchange.Keeps and noticesOnce say. -/
structure State.Holds (s t : State) : Prop where
  resetn   : t.resetn = s.resetn
  links    : t.links = s.links
  admin    : t.admin = s.admin
  profiles : t.profiles = s.profiles
  settings : t.settings = s.settings
  pending  : t.pending = s.pending
  exchs    : ∀ p, (s.exch p).Keeps (t.exch p)
  notices  : ∀ p, noticesOnce (s.noticeList p) → noticesOnce (t.noticeList p)

/-- The same, and every region record keeps its form. -/
structure State.Keeps (s t : State) : Prop where
  holds   : s.Holds t
  regions : ∀ n, (s.region n).Keeps (t.region n)

theorem State.Holds.refl (s : State) : s.Holds s :=
  ⟨rfl, rfl, rfl, rfl, rfl, rfl, fun _ => .refl _, fun _ h => h⟩

theorem State.Holds.trans {s t u : State} (h : s.Holds t) (g : t.Holds u) : s.Holds u where
  resetn := g.resetn.trans h.resetn
  links := g.links.trans h.links
  admin := g.admin.trans h.admin
  profiles := g.profiles.trans h.profiles
  settings := g.settings.trans h.settings
  pending := g.pending.trans h.pending
  exchs p := (h.exchs p).trans (g.exchs p)
  notices p k := g.notices p (h.notices p k)

theorem State.Keeps.refl (s : State) : s.Keeps s := ⟨.refl s, fun _ => .refl _⟩

theorem State.Keeps.trans {s t u : State} (h : s.Keeps t) (g : t.Keeps u) : s.Keeps u :=
  ⟨h.holds.trans g.holds, fun n => (h.regions n).trans (g.regions n)⟩

/-- A relation that is kept at each step of a fold is kept by the fold. -/
theorem foldl_keeps {α β : Type} (R : α → α → Prop) (refl : ∀ a, R a a) (trans : ∀ {a b c}, R a b → R b c → R a c)
    (f : α → β → α) (l : List β) (h : ∀ a, ∀ b ∈ l, R a (f a b)) (a : α) : R a (l.foldl f a) := by
  induction l generalizing a with
  | nil => exact refl a
  | cons b l ih =>
    exact trans (h a b (List.mem_cons_self ..)) (ih (fun a c hc => h a c (List.mem_cons_of_mem _ hc)) _)

/-- An update of records that no clause of Holds names. -/
theorem State.holds_of_same {s t : State} (h1 : t.resetn = s.resetn) (h2 : t.links = s.links) (h3 : t.admin = s.admin)
    (h4 : t.profiles = s.profiles) (h5 : t.settings = s.settings) (h6 : t.pending = s.pending)
    (h7 : t.exchs = s.exchs) (h8 : t.notices = s.notices) : s.Holds t := by
  refine ⟨h1, h2, h3, h4, h5, h6, fun p => ?_, fun p h => ?_⟩
  · unfold State.exch; rw [h7]; exact .refl _
  · unfold State.noticeList at h ⊢; rw [h8]; exact h

theorem State.keeps_of_same {s t : State} (h : s.Holds t) (hr : t.regions = s.regions) : s.Keeps t :=
  ⟨h, fun n => by unfold State.region; rw [hr]; exact .refl _⟩

theorem State.setSeq_keeps (s : State) (d : Dev) (q : Sequencer) : s.Keeps (s.setSeq d q) :=
  State.keeps_of_same (State.holds_of_same rfl rfl rfl rfl rfl rfl rfl rfl) rfl

theorem State.setBus_keeps (s : State) (b : Bus) : s.Keeps (s.setBus b) :=
  State.keeps_of_same (State.holds_of_same rfl rfl rfl rfl rfl rfl rfl rfl) rfl

theorem State.setRegion_holds (s : State) (n : RegionId) (r : Region) : s.Holds (s.setRegion n r) :=
  State.holds_of_same rfl rfl rfl rfl rfl rfl rfl rfl

theorem State.setRegion_keeps (s : State) (n : RegionId) (r : Region) (h : (s.region n).Keeps r) :
    s.Keeps (s.setRegion n r) := by
  refine ⟨s.setRegion_holds n r, fun m => ?_⟩
  rw [State.region_setRegion]
  split
  · rename_i e; subst e; exact h
  · exact .refl _

/-! ### Exchanges -/

theorem State.setExch_keeps (s : State) (p : Port) (x : Exchange) (h : (s.exch p).Keeps x) :
    s.Keeps (s.setExch p x) := by
  refine ⟨⟨rfl, rfl, rfl, rfl, rfl, rfl, fun q => ?_, fun _ h => h⟩, fun n => .refl _⟩
  rw [State.exch_setExch]
  split
  · rename_i e; subst e; exact h
  · exact .refl _

theorem State.answer_keeps (s : State) (p : Port) (k : Slot) (r : Result) (v : Values) (b : Option (List Byte)) :
    s.Keeps (s.answer p k r v b) :=
  s.setExch_keeps p _ (Exchange.answer_keeps _ k r v b)

theorem State.vacate_keeps (s : State) (p : Port) (k : Slot) (h : (s.entry p k).state = .draining) :
    s.Keeps (s.vacate p k) :=
  s.setExch_keeps p _ (Exchange.vacate_keeps _ k h)

/-- The state of an entry that is in progress after it is changed in place. -/
theorem State.setEntry_keeps (s : State) (p : Port) (k : Slot) (e : Entry) (hl : (s.entry p k).state.inLine = true)
    (el : e.state.inLine = true) (er : (s.entry p k).SameRequest e)
    (ed : e.state = .draining ↔ (s.entry p k).state = .draining)
    (eh : e.state.holdsTag = true → (s.entry p k).state.holdsTag = true) : s.Keeps (s.setEntry p k e) := by
  refine s.setExch_keeps p _ (Exchange.put_keeps _ k e ?_ ?_ ?_ ?_ er ed eh)
  · intro h; unfold State.entry at hl; rw [h] at hl; exact absurd hl (by decide)
  · intro h; unfold State.entry at hl; rw [h] at hl; exact absurd hl (by decide)
  · intro h; rw [h] at el; exact absurd el (by decide)
  · intro h; rw [h] at el; exact absurd el (by decide)

theorem State.requestStop_keeps (s : State) (p : Port) (k : Slot) (x : StopRequest) :
    s.Keeps (s.requestStop p k x) := by
  unfold State.requestStop
  by_cases h : ((s.entry p k).state == .active && (s.entry p k).stop == .none) = true
  · simp only [h, if_true]
    rw [Bool.and_eq_true, beq_iff_eq] at h
    exact s.setEntry_keeps p k _ (by rw [h.1]; rfl) (by show (s.entry p k).state.inLine = true; rw [h.1]; rfl)
      ⟨rfl, rfl, rfl, rfl, rfl, rfl⟩ Iff.rfl (fun g => g)
  · simp only [h]
    exact .refl s

theorem State.answerSlots_keeps (s : State) (p : Port) (l : List Slot) (r : Result) : s.Keeps (s.answerSlots p l r) :=
  foldl_keeps State.Keeps .refl .trans _ l (fun s k _ => s.answer_keeps p k r _ _) s

theorem State.stopSlots_keeps (s : State) (p : Port) (l : List Slot) (x : StopRequest) : s.Keeps (s.stopSlots p l x) :=
  foldl_keeps State.Keeps .refl .trans _ l (fun s k _ => s.requestStop_keeps p k x) s

/-! ### Notices -/

theorem map_region_postTo (x : Notice) (l : List Notice) :
    (postTo x l).map Notice.region =
      if x.region ∈ l.map Notice.region then l.map Notice.region else l.map Notice.region ++ [x.region] := by
  induction l with
  | nil => simp [postTo]
  | cons r l ih =>
    unfold postTo
    by_cases h : r.region = x.region
    · simp [h]
    · have h' : ¬ x.region = r.region := fun e => h e.symm
      simp only [h, if_false, List.map_cons, ih, List.mem_cons, h', false_or]
      split <;> simp

theorem postTo_once (x : Notice) (l : List Notice) (h : noticesOnce l) : noticesOnce (postTo x l) := by
  unfold noticesOnce at h ⊢
  rw [map_region_postTo]
  split
  · exact h
  · rename_i g
    refine List.nodup_append.mpr ⟨h, List.nodup_singleton _, ?_⟩
    intro a ha b hb e
    rw [List.mem_singleton] at hb
    subst hb; subst e
    exact g ha

theorem State.post_keeps (s : State) (p : Port) (x : Notice) : s.Keeps (s.post p x) := by
  refine ⟨⟨rfl, rfl, rfl, rfl, rfl, rfl, fun _ => .refl _, fun q h => ?_⟩, fun _ => .refl _⟩
  unfold State.post
  rw [State.noticeList_setNotices]
  split
  · rename_i e; subst e; exact postTo_once x _ h
  · exact h

theorem State.postSet_keeps (s : State) (ports : PortSet) (x : Notice) : s.Keeps (s.postSet ports x) := by
  refine foldl_keeps State.Keeps .refl .trans _ _ (fun s p _ => ?_) s
  split
  · exact s.post_keeps p x
  · exact .refl s

@[simp] theorem State.regions_post (s : State) (p : Port) (x : Notice) : (s.post p x).regions = s.regions := rfl

@[simp] theorem State.regions_postSet (s : State) (ports : PortSet) (x : Notice) :
    (s.postSet ports x).regions = s.regions := by
  refine foldl_keeps (fun a b : State => b.regions = a.regions) (fun _ => rfl) (fun h g => g.trans h) _ _
    (fun s p _ => ?_) s
  split <;> rfl

@[simp] theorem State.regions_answer (s : State) (p : Port) (k : Slot) (r : Result) (v : Values)
    (b : Option (List Byte)) : (s.answer p k r v b).regions = s.regions := rfl

@[simp] theorem State.settings_answer (s : State) (p : Port) (k : Slot) (r : Result) (v : Values)
    (b : Option (List Byte)) : (s.answer p k r v b).settings = s.settings := rfl

@[simp] theorem State.regions_answerSlots (s : State) (p : Port) (l : List Slot) (r : Result) :
    (s.answerSlots p l r).regions = s.regions :=
  foldl_keeps (fun a b : State => b.regions = a.regions) (fun _ => rfl) (fun h g => g.trans h)
    (fun s k => s.answer p k r) l (fun s k _ => s.regions_answer p k r _ _) s

@[simp] theorem State.regions_requestStop (s : State) (p : Port) (k : Slot) (x : StopRequest) :
    (s.requestStop p k x).regions = s.regions := by
  unfold State.requestStop
  by_cases h : ((s.entry p k).state == .active && (s.entry p k).stop == .none) = true
  · simp only [h, if_true]; rfl
  · simp only [h]; rfl

@[simp] theorem State.regions_stopSlots (s : State) (p : Port) (l : List Slot) (x : StopRequest) :
    (s.stopSlots p l x).regions = s.regions :=
  foldl_keeps (fun a b : State => b.regions = a.regions) (fun _ => rfl) (fun h g => g.trans h) _ l
    (fun s k _ => s.regions_requestStop p k x) s

/-- The answers of an action put in admission order (R144). -/
theorem State.regroup_keeps {s t : State} (h : s.Keeps t) : s.Keeps (s.regroup t) := by
  refine ⟨⟨h.holds.resetn, h.holds.links, h.holds.admin, h.holds.profiles, h.holds.settings, h.holds.pending,
    fun p => ?_, h.holds.notices⟩, h.regions⟩
  have := Exchange.regroup_keeps (h.holds.exchs p)
  cases p <;> exact this

/-- An action that answers nothing leaves the lists as they are (R144). -/
@[simp] theorem State.regroup_self (s : State) : s.regroup s = s := by
  have h : ∀ x : Exchange, x.regroup x = x := fun x => by simp [Exchange.regroup]
  simp only [State.regroup, h]

theorem State.inAdmissionOrder_keeps (s : State) (part : State → State) (h : s.Keeps (part s)) :
    s.Keeps (s.inAdmissionOrder part) := State.regroup_keeps h

/-! ### Leases -/

theorem State.grant_holds (s : State) (n : RegionId) (p : Port) (k : Slot) (t : Nat) : s.Holds (s.grant n p k t) :=
  (s.setRegion_holds n _).trans (State.answer_keeps _ p k _ _ _).holds

theorem State.postChanged_keeps (s : State) (n : RegionId) (ex : Port) : s.Keeps (s.postChanged n ex) := by
  unfold State.postChanged
  split
  · exact s.postSet_keeps _ _
  · exact .refl s

theorem State.answerWhere_keeps (s : State) (p : Port) (slot : Option Slot) (r : Result) (v : Values) :
    s.Keeps (s.answerWhere p slot r v) := by
  cases slot with
  | none => exact .refl s
  | some k => exact s.answer_keeps p k r v _

theorem State.answerGranted_keeps (s : State) (head : Option ClaimRecord) (t : Nat) (g : Half) :
    s.Keeps (s.answerGranted head t g) := by
  cases head with
  | none => exact .refl s
  | some c => exact s.answer_keeps _ _ _ _ _

@[simp] theorem State.regions_postChanged (s : State) (n : RegionId) (ex : Port) :
    (s.postChanged n ex).regions = s.regions := by
  unfold State.postChanged
  split
  · exact s.regions_postSet _ _
  · rfl

@[simp] theorem State.regions_answerWhere (s : State) (p : Port) (slot : Option Slot) (r : Result) (v : Values) :
    (s.answerWhere p slot r v).regions = s.regions := by
  cases slot <;> rfl

@[simp] theorem State.regions_answerGranted (s : State) (head : Option ClaimRecord) (t : Nat) (g : Half) :
    (s.answerGranted head t g).regions = s.regions := by
  cases head <;> rfl

/-- What a lease end leaves in the region records (R37, R38). -/
theorem State.region_leaseEnd (s : State) (n m : RegionId) (ex : Port) (rel : Option Slot) :
    (s.leaseEnd n ex rel).region m = if m = n then (s.region n).leaseOver s.settings else s.region m := by
  unfold State.leaseEnd
  rw [State.region_setRegion]
  split
  · rfl
  · unfold State.region; simp

theorem State.leaseEnd_keeps (s : State) (n : RegionId) (ex : Port) (rel : Option Slot) :
    s.Keeps (s.leaseEnd n ex rel) := by
  unfold State.leaseEnd
  have h1 := s.postChanged_keeps n ex
  have h2 := State.answerWhere_keeps (s.postChanged n ex) ex rel .done (.generation (s.region n).nextGeneration)
  have h3 := State.answerGranted_keeps ((s.postChanged n ex).answerWhere ex rel .done
    (.generation (s.region n).nextGeneration)) (s.region n).queue.head? ((s.region n).leaseOver s.settings).remaining
    (s.region n).nextGeneration
  refine ((h1.trans h2).trans h3).trans (State.setRegion_keeps _ n _ ?_)
  have e : (State.region (((s.postChanged n ex).answerWhere ex rel .done
      (.generation (s.region n).nextGeneration)).answerGranted (s.region n).queue.head?
      ((s.region n).leaseOver s.settings).remaining (s.region n).nextGeneration) n) = s.region n := by
    unfold State.region; simp
  rw [e]
  exact Region.leaseOver_keeps _ _

theorem State.leaseLost_keeps (s : State) (n : RegionId) (p : Port) : s.Keeps (s.leaseLost n p) :=
  (((s.answerSlots_keeps p _ _).trans (State.answerWhere_keeps _ p _ _ _)).trans
    (State.stopSlots_keeps _ p _ _)).trans (State.post_keeps _ p _)

theorem State.leaseLoss_keeps (s : State) (n : RegionId) (p : Port) (b : Bool) : s.Keeps (s.leaseLoss n p b) := by
  unfold State.leaseLoss
  have h : s.Keeps (if b then s else s.leaseLost n p) := by
    cases b
    · exact s.leaseLost_keeps n p
    · exact .refl s
  refine h.trans ?_
  generalize (if b then s else s.leaseLost n p) = t
  dsimp only
  split
  · exact t.setRegion_keeps n _ (Region.closing_keeps _)
  · exact t.leaseEnd_keeps n p none

theorem State.freeRegion_keeps (s : State) (n : RegionId) : s.Keeps (s.freeRegion n) := by
  have h : s.Keeps { s.setRegion n .free with epoch := s.epoch + 1#16 } := by
    refine (s.setRegion_keeps n .free ?_).trans (State.keeps_of_same (State.holds_of_same rfl rfl rfl rfl rfl rfl rfl rfl) rfl)
    exact fun _ => ⟨Region.free_form, fun p => by rw [Region.free_share]; exact Nat.zero_le _⟩
  unfold State.freeRegion
  split
  · exact h
  · exact h.trans (State.answer_keeps _ _ _ _ _ _)

theorem State.leaveRelease_keeps (s : State) (p : Port) (k : Slot) (n : RegionId) : s.Keeps (s.leaveRelease p k n) := by
  unfold State.leaveRelease
  split
  · split
    · exact s.leaseEnd_keeps n p _
    · exact s.setRegion_keeps n _ (Region.keeps_of_same rfl rfl rfl rfl rfl rfl)
  · exact .refl s

theorem State.operationEnded_keeps (s : State) (p : Port) (k : Slot) (n : RegionId) (w : Bool) :
    s.Keeps (s.operationEnded p k n w) := by
  unfold State.operationEnded
  refine (s.leaveRelease_keeps p k n).trans ?_
  generalize s.leaveRelease p k n = t
  dsimp only
  split
  · split
    · exact t.leaseEnd_keeps n p none
    · exact .refl t
  · split
    · exact .refl t
    · exact t.freeRegion_keeps n
  all_goals exact .refl t

theorem State.endEntry_keeps (s : State) (p : Port) (k : Slot) (x : Result) (v : Values) (b : Option (List Byte)) :
    s.Keeps (s.endEntry p k x v b) := by
  unfold State.endEntry
  split
  · rename_i g; exact s.vacate_keeps p k (beq_iff_eq.mp g)
  · exact s.answer_keeps p k x v b

theorem State.entryGone_keeps (s : State) (p : Port) (k : Slot) (e : Entry) : s.Keeps (s.entryGone p k e) := by
  unfold State.entryGone
  split
  · exact .refl s
  · split
    · exact s.operationEnded_keeps p k _ _
    · exact s.leaveRelease_keeps p k _

/-- Without an end there is nothing to report (R75). -/
@[simp] theorem State.reportEnds_nil (s : State) : s.reportEnds [] = s := by
  have h : ∀ l : List RegionId, l.foldl (fun (s : State) _ => s) s = s := by
    intro l; induction l with
    | nil => rfl
    | cons n l ih => exact ih
  unfold State.reportEnds State.inAdmissionOrder
  simp only [List.foldl_nil, h, State.regroup_self]

theorem State.reportEnds_keeps (s : State) (gone : List (EntryRef × Entry)) : s.Keeps (s.reportEnds gone) := by
  unfold State.reportEnds
  refine s.inAdmissionOrder_keeps _ ?_
  refine foldl_keeps State.Keeps .refl .trans _ _ (fun s n _ => ?_) s
  refine foldl_keeps State.Keeps .refl .trans _ _ (fun s x _ => ?_) s
  split
  · exact s.entryGone_keeps _ _ _
  · exact .refl s

end Sys2Proof.Machine
end

