-- ==== Sys2Proof/Laws/Sequencer.lean ====
section
/-! SUPPORT. What the operations of the bus and of the Device Sequencers keep (State.Keeps): one lemma for each. -/

namespace Sys2Proof.Machine

/-! ### The bus -/

theorem State.grantBus_keeps (s : State) (d : Dev) (t : Transaction) : s.Keeps (s.grantBus d t) :=
  State.keeps_of_same (State.holds_of_same rfl rfl rfl rfl rfl rfl rfl rfl) rfl

theorem State.place_keeps (s : State) (d : Dev) (t : Transaction) : s.Keeps (s.place d t) := by
  unfold State.place
  split
  · exact s.grantBus_keeps d t
  · exact s.setSeq_keeps d _

theorem State.grantNext_keeps (s : State) : s.Keeps s.grantNext := by
  unfold State.grantNext
  split
  · exact .refl s
  · dsimp only
    split
    · exact s.grantBus_keeps _ _
    · split
      · exact s.grantBus_keeps _ _
      · exact .refl s

theorem State.releaseBus_keeps (s : State) : s.Keeps s.releaseBus := s.setBus_keeps _

theorem State.abandonBus_keeps (s : State) (d : Dev) : s.Keeps (s.abandonBus d) := by
  unfold State.abandonBus
  refine (s.setSeq_keeps d { s.seq d with busRequest := none }).trans ?_
  generalize s.setSeq d { s.seq d with busRequest := none } = t
  dsimp only
  split
  · exact .refl t
  · split
    · exact t.setBus_keeps _
    · exact .refl t

/-- A transaction's end keeps what its event keeps (R101). -/
theorem State.endTransaction_keeps (s : State) (effect : State → State) (h : ∀ t : State, t.Keeps (effect t)) :
    s.Keeps (s.endTransaction effect) := by
  unfold State.endTransaction
  split
  · exact .refl s
  · refine State.Keeps.trans ?_ (State.grantNext_keeps _)
    split
    · exact s.releaseBus_keeps.trans (h _)
    · exact s.releaseBus_keeps

theorem State.onCurrent_keeps (s : State) (d : Dev) (effect : EntryRef → State)
    (h : ∀ r, (s.entry r.port r.slot).state.running = true → s.Keeps (effect r)) : s.Keeps (s.onCurrent d effect) := by
  unfold State.onCurrent
  split
  · exact .refl s
  · split
    · rename_i g; exact h _ g
    · exact .refl s

/-- An end command is due when its transaction ends on the bus. -/
theorem State.Ends.due {s : State} {d : Dev} {use : BusUse} {n : Nat} (h : s.Ends d use n) :
    s.endDue d use n = true := by
  obtain ⟨t, hc, hd, hu, hn, -⟩ := h.onBus
  unfold State.endDue State.ending
  rw [h.resetn, hc]
  simp [hd, hu, hn]

/-- The end of a transaction whose result is wanted (R101). -/
theorem State.Ends.endTransaction {s : State} {d : Dev} {use : BusUse} {n : Nat} (h : s.Ends d use n)
    (effect : State → State) : s.endTransaction effect = (effect s.releaseBus).grantNext := by
  obtain ⟨t, hc, -, -, -, hl⟩ := h.onBus
  unfold State.endTransaction
  rw [hc]
  simp only [hl, if_true]

/-- An event of the current operation (R79). -/
theorem State.Runs.onCurrent {s : State} {d : Dev} {r : EntryRef} (h : s.Runs d r) (effect : EntryRef → State) :
    s.onCurrent d effect = effect r := by
  unfold State.onCurrent
  rw [h.current]
  simp only [h.running, if_true]

theorem State.Runs.releaseBus {s : State} {d : Dev} {r : EntryRef} (h : s.Runs d r) : s.releaseBus.Runs d r :=
  ⟨h.current, h.running⟩

/-! ### Selections and starts -/

theorem EntryState.inLine_of_running {x : EntryState} (h : x.running = true) : x.inLine = true := by
  cases x <;> first | rfl | exact absurd h (by decide)

/-- What a selection picks is the head of its port's line and passes the test (R80, R82). -/
theorem State.pick_some {s : State} {d : Dev} {test : Port → Slot → Bool} {r : EntryRef} (h : s.pick d test = some r) :
    s.head d r.port = some r.slot ∧ test r.port r.slot = true := by
  unfold State.pick at h
  obtain ⟨p, -, hp⟩ := List.exists_of_findSome?_eq_some h
  split at hp
  · exact absurd hp (by simp)
  · split at hp
    · rename_i k hk ht
      rw [Option.some.injEq] at hp
      subst hp
      exact ⟨hk, ht⟩
    · exact absurd hp (by simp)

/-- The head of a line stands in the line and names its device (R80). -/
theorem State.head_some {s : State} {d : Dev} {p : Port} {k : Slot} (h : s.head d p = some k) :
    (s.entry p k).state.inLine = true ∧ (s.entry p k).device = some d := by
  have := List.find?_some h
  rw [Bool.and_eq_true, beq_iff_eq] at this
  exact this

theorem State.pick_inLine {s : State} {d : Dev} {test : Port → Slot → Bool} {r : EntryRef}
    (h : s.pick d test = some r) : (s.entry r.port r.slot).state.inLine = true :=
  (State.head_some (State.pick_some h).1).1

theorem State.started_keeps (s : State) (p : Port) (k : Slot) (h : (s.entry p k).state.inLine = true) :
    s.Keeps (s.setEntry p k (s.entry p k).started) := by
  refine s.setEntry_keeps p k _ h ?_ ⟨rfl, rfl, rfl, rfl, rfl, rfl⟩ ?_ ?_
  · unfold Entry.started
    dsimp only
    split <;> rfl
  · unfold Entry.started
    dsimp only
    split
    · rename_i g; exact ⟨fun _ => beq_iff_eq.mp g, fun _ => rfl⟩
    · rename_i g; exact ⟨fun e => absurd e (by simp), fun e => absurd (beq_iff_eq.mpr e) g⟩
  · unfold Entry.started
    dsimp only
    split
    · intro g; exact absurd g (by decide)
    · rename_i g
      intro _
      cases e : (s.entry p k).state <;> rw [e] at h g <;> first | rfl | exact absurd h (by decide) | exact absurd rfl g

theorem State.stepBegun_keeps (s : State) (region : Option RegionId) : s.Keeps (s.stepBegun region) := by
  cases region with
  | none => exact .refl s
  | some n => exact s.setRegion_keeps n _ (Region.keeps_of_same rfl rfl rfl rfl rfl rfl)

theorem State.startRead_keeps (s : State) (d : Dev) (r : EntryRef) (i : DevState)
    (h : (s.entry r.port r.slot).state.inLine = true) : s.Keeps (s.startRead d r i) :=
  ((s.started_keeps r.port r.slot h).trans (State.setSeq_keeps _ d _)).trans (State.place_keeps _ d _)

theorem State.startProgram_keeps (s : State) (d : Dev) (r : EntryRef)
    (h : (s.entry r.port r.slot).state.inLine = true) : s.Keeps (s.startProgram d r) :=
  (((s.started_keeps r.port r.slot h).trans (State.stepBegun_keeps _ _)).trans (State.setSeq_keeps _ d _)).trans
    (State.place_keeps _ d _)

theorem State.startSectorStep_keeps (s : State) (d : Dev) (r : EntryRef)
    (h : (s.entry r.port r.slot).state.inLine = true) : s.Keeps (s.startSectorStep d r) :=
  (((s.started_keeps r.port r.slot h).trans (State.stepBegun_keeps _ _)).trans (State.setSeq_keeps _ d _)).trans
    (State.place_keeps _ d _)

theorem State.endStopped_keeps (d : Dev) (fuel : Nat) (s : State) : s.Keeps (State.endStopped d fuel s).1 := by
  induction fuel generalizing s with
  | zero => exact .refl s
  | succ fuel ih =>
    unfold State.endStopped
    split
    · exact .refl s
    · dsimp only
      split
      · exact ((s.setSeq_keeps d _).trans (State.endEntry_keeps _ _ _ _ _ _)).trans (ih _)
      · exact .refl s

theorem State.startNext_keeps (s : State) (d : Dev) : s.Keeps (s.startNext d) := by
  unfold State.startNext
  split
  · exact .refl s
  · rename_i r hr
    have hl : ((s.setSeq d { s.seq d with lastServed := r.port }).entry r.port r.slot).state.inLine = true :=
      State.pick_inLine (s := s) hr
    refine (s.setSeq_keeps d { s.seq d with lastServed := r.port }).trans ?_
    dsimp only
    generalize s.setSeq d { s.seq d with lastServed := r.port } = t at hl ⊢
    split
    · exact t.startRead_keeps d r _ hl
    · split
      · exact t.startProgram_keeps d r hl
      · exact t.startSectorStep_keeps d r hl

theorem State.endAndSelect_keeps (s : State) (d : Dev) (own : State → State) (gone : List (EntryRef × Entry))
    (h : s.Keeps (own s)) : s.Keeps (s.endAndSelect d own gone) :=
  ((State.regroup_keeps (h.trans (State.endStopped_keeps d 25 _))).trans (State.reportEnds_keeps _ _)).trans
    (State.startNext_keeps _ d)

theorem State.selectIdle_keeps (s : State) (d : Dev) : s.Keeps (s.selectIdle d) :=
  s.endAndSelect_keeps d id [] (.refl s)

/-! ### Ends of steps and operations -/

theorem State.endOperation_keeps (s : State) (d : Dev) (r : EntryRef) (x : Result) (v : Values)
    (b : Option (List Byte)) : s.Keeps (s.endOperation d r x v b) :=
  s.endAndSelect_keeps d _ _ ((s.setSeq_keeps d _).trans (State.endEntry_keeps _ _ _ _ _ _))

theorem State.sectorStepCompleted_keeps (s : State) (d : Dev) (r : EntryRef)
    (h : (s.entry r.port r.slot).state.inLine = true) : s.Keeps (s.sectorStepCompleted d r) := by
  unfold State.sectorStepCompleted
  have g : s.Keeps (s.setEntry r.port r.slot
      { s.entry r.port r.slot with progress := (s.entry r.port r.slot).progress + 1 }) :=
    s.setEntry_keeps r.port r.slot _ h h ⟨rfl, rfl, rfl, rfl, rfl, rfl⟩ Iff.rfl (fun g => g)
  refine g.trans ?_
  dsimp only
  split
  · exact (State.setSeq_keeps _ d _).trans (State.selectIdle_keeps _ d)
  · exact State.endOperation_keeps _ d r _ _ _

theorem State.pollingEnded_keeps (s : State) (d : Dev) (r : EntryRef) (status : Byte)
    (h : (s.entry r.port r.slot).state.inLine = true) : s.Keeps (s.pollingEnded d r status) := by
  unfold State.pollingEnded
  dsimp only
  split
  · split
    · exact (s.setSeq_keeps d _).trans (State.place_keeps _ d _)
    · exact s.endOperation_keeps d r _ _ _
  · split
    · split
      · exact (s.setSeq_keeps d _).trans (State.place_keeps _ d _)
      · exact s.endOperation_keeps d r _ _ _
    · exact s.sectorStepCompleted_keeps d r h

theorem State.issueStep_keeps (s : State) (d : Dev) (r : EntryRef) : s.Keeps (s.issueStep d r) := by
  unfold State.issueStep
  dsimp only
  split <;> exact s.place_keeps d _

/-! ### Suspension -/

theorem State.resume_keeps (s : State) (d : Dev) (range : EntryRef) : s.Keeps (s.resume d range) := by
  unfold State.resume
  dsimp only
  split
  · exact s.setSeq_keeps d _
  · exact (s.setSeq_keeps d _).trans (State.place_keeps _ d _)

theorem State.selectSuspended_keeps (s : State) (d : Dev) (range : EntryRef) : s.Keeps (s.selectSuspended d range) := by
  unfold State.selectSuspended
  dsimp only
  split
  · exact s.resume_keeps d range
  · split
    · exact s.resume_keeps d range
    · rename_i r hr
      have h := State.pick_inLine hr
      exact (s.setSeq_keeps d _).trans (State.startRead_keeps _ d r _ h)

theorem State.enterSuspended_keeps (s : State) (d : Dev) (range : EntryRef) : s.Keeps (s.enterSuspended d range) :=
  (s.setSeq_keeps d _).trans (State.selectSuspended_keeps _ d range)

/-! ### Entries ended by their device -/

theorem State.endEntries_keeps (s : State) (l : List (EntryRef × Result)) : s.Keeps (s.endEntries l) :=
  (s.inAdmissionOrder_keeps _
    (foldl_keeps State.Keeps .refl .trans _ l (fun t _ _ => t.endEntry_keeps _ _ _ _ _) s)).trans
    (State.reportEnds_keeps _ _)

theorem State.enterFaulted_keeps (s : State) (d : Dev) : s.Keeps (s.enterFaulted d) :=
  ((s.setSeq_keeps d _).trans (State.abandonBus_keeps _ d)).trans (State.endEntries_keeps _ _)

theorem State.answerWaiting_keeps (s : State) (d : Dev) (x : Result) (v : Values) : s.Keeps (s.answerWaiting d x v) := by
  unfold State.answerWaiting
  split
  · exact .refl s
  · exact (s.setSeq_keeps d _).trans (State.answer_keeps _ _ _ _ _ _)

theorem State.endQueued_keeps (s : State) (d : Dev) (x : Result) : s.Keeps (s.endQueued d x) :=
  s.endEntries_keeps _

/-! ### Probes and recoveries -/

theorem State.probeEnd_keeps (s : State) (d : Dev) (id : DeviceId) : s.Keeps (s.probeEnd d id) := by
  unfold State.probeEnd
  split
  · exact ((s.setSeq_keeps d _).trans (State.answerWaiting_keeps _ d _ _)).trans (State.selectIdle_keeps _ d)
  · exact ((s.setSeq_keeps d _).trans (State.answerWaiting_keeps _ d _ _)).trans (State.endQueued_keeps _ d _)

theorem State.nextReset_keeps (s : State) (d : Dev) : s.Keeps (s.nextReset d) := by
  unfold State.nextReset
  dsimp only
  split
  · exact (s.setSeq_keeps d _).trans (State.place_keeps _ d _)
  · exact s.setSeq_keeps d _

theorem State.recoveryStatus_keeps (s : State) (d : Dev) (b : Byte) : s.Keeps (s.recoveryStatus d b) := by
  unfold State.recoveryStatus
  split
  · exact s.setSeq_keeps d _
  · exact (s.setSeq_keeps d _).trans (State.place_keeps _ d _)

theorem State.recoveryPolling_keeps (s : State) (d : Dev) : s.Keeps (s.recoveryPolling d) :=
  (s.setSeq_keeps d _).trans (State.place_keeps _ d _)

theorem State.recoveryFailed_keeps (s : State) (d : Dev) : s.Keeps (s.recoveryFailed d) :=
  (((s.setSeq_keeps d _).trans (State.abandonBus_keeps _ d)).trans (State.answerWaiting_keeps _ d _ _)).trans
    (State.endQueued_keeps _ d _)

/-! ### The events of the current operation -/

theorem State.readEnded_keeps (s : State) (d : Dev) (r : EntryRef) (bytes : List Byte) :
    s.Keeps (s.readEnded d r bytes) := by
  unfold State.readEnded
  dsimp only
  split
  · exact s.endOperation_keeps d r _ _ _
  · exact (((s.setSeq_keeps d _).trans (State.endEntry_keeps _ _ _ _ _ _)).trans (State.reportEnds_keeps _ _)).trans
      (State.selectSuspended_keeps _ d _)

theorem State.latchChecked_keeps (s : State) (d : Dev) (r : EntryRef) (b : Byte) : s.Keeps (s.latchChecked d r b) := by
  unfold State.latchChecked
  dsimp only
  split
  · exact s.issueStep_keeps d r
  · split
    · exact (s.setSeq_keeps d _).trans (State.place_keeps _ d _)
    · exact s.endOperation_keeps d r _ _ _

theorem State.pollTurn_keeps (s : State) (d : Dev) (r : EntryRef) : s.Keeps (s.pollTurn d r) := by
  unfold State.pollTurn
  dsimp only
  split <;> exact (s.setSeq_keeps d _).trans (State.place_keeps _ d _)

theorem State.polled_keeps (s : State) (d : Dev) (r : EntryRef) (b : Byte)
    (h : (s.entry r.port r.slot).state.inLine = true) : s.Keeps (s.polled d r b) := by
  unfold State.polled
  dsimp only
  split
  · exact s.setSeq_keeps d _
  · exact (s.setSeq_keeps d _).trans (State.pollingEnded_keeps _ d r b h)

theorem State.verified_keeps (s : State) (d : Dev) (r : EntryRef) (back : List Byte) :
    s.Keeps (s.verified d r back) := by
  unfold State.verified
  dsimp only
  split <;> exact s.endOperation_keeps d r _ _ _

theorem State.watchStatus_keeps (s : State) (d : Dev) (use : BusUse) : s.Keeps (s.watchStatus d use) :=
  (s.setSeq_keeps d _).trans (State.place_keeps _ d _)

theorem State.endedInSuspension_keeps (s : State) (d : Dev) (r : EntryRef) (b : Byte)
    (h : (s.entry r.port r.slot).state.inLine = true) : s.Keeps (s.endedInSuspension d r b) :=
  (s.setSeq_keeps d _).trans (State.pollingEnded_keeps _ d r b h)

theorem State.suspendingStatus_keeps (s : State) (d : Dev) (r : EntryRef) (b : Byte)
    (h : (s.entry r.port r.slot).state.inLine = true) : s.Keeps (s.suspendingStatus d r b) := by
  unfold State.suspendingStatus
  split
  · exact s.place_keeps d _
  · split
    · exact s.enterSuspended_keeps d r
    · exact s.endedInSuspension_keeps d r b h

theorem State.resumingStatus_keeps (s : State) (d : Dev) (r : EntryRef) (b : Byte)
    (h : (s.entry r.port r.slot).state.inLine = true) : s.Keeps (s.resumingStatus d r b) := by
  unfold State.resumingStatus
  split
  · exact s.place_keeps d _
  · split
    · exact s.setSeq_keeps d _
    · exact s.endedInSuspension_keeps d r b h

end Sys2Proof.Machine
end

