-- ==== Sys2Proof/Laws/Bus.lean ====
section
/-! SUPPORT. What the flash bus shifts in: lanes that carry bytes give those bytes, and the end of a transaction hands them
to its event (R98, R99, R101). -/

namespace Sys2Proof.Machine

/-! ### Cycles of a data phase -/

/-- The cycles of the data phase follow those of the other three (R97). -/
theorem Transaction.phaseAt_data (t : Transaction) {k : Nat} (h : k < t.dataCycles) :
    t.phaseAt (t.commandCycles + t.addressCycles + t.dummy + k) = some (.data, k) := by
  unfold Transaction.phaseAt
  have h1 : ¬ t.commandCycles + t.addressCycles + t.dummy + k < t.commandCycles := by omega
  have h2 : t.commandCycles + t.addressCycles + t.dummy + k - t.commandCycles = t.addressCycles + t.dummy + k := by omega
  have h3 : ¬ t.addressCycles + t.dummy + k < t.addressCycles := by omega
  have h4 : t.addressCycles + t.dummy + k - t.addressCycles = t.dummy + k := by omega
  have h5 : ¬ t.dummy + k < t.dummy := by omega
  have h6 : t.dummy + k - t.dummy = k := by omega
  simp only [h1, h2, h3, h4, h5, h6, h, if_false, if_true]

/-- In a cycle of a data phase in the device's levels are sampled as they are (R98, R99). -/
theorem Transaction.sampledAt_data (t : Transaction) {cycle k : Nat} (h : t.phaseAt cycle = some (.data, k))
    (hin : t.inCount ≠ 0) (device : LineLevels) : t.sampledAt cycle device = laneBits t.lanes.data device := by
  unfold Transaction.sampledAt Transaction.lanesAt
  rw [h]
  simp only [hin, if_false]
  cases t.lanes.data <;> rfl

/-! ### Bytes -/

theorem bytesOf_bitsOf (bytes : List Byte) : bytesOf (bytes.flatMap bitsOf) = bytes := by
  induction bytes with
  | nil => rfl
  | cons b rest ih =>
    have h := byteOf_bitsOf b
    simp only [bitsOf] at h
    simp only [List.flatMap_cons, bitsOf, List.cons_append, List.nil_append, bytesOf, h, List.cons.injEq, true_and]
    exact ih

/-- Past the cycles of its first byte a device gives the rest of its bytes. -/
theorem deviceLevels_cons (w : LaneCount) (b : Byte) (rest : List Byte) (k : Nat) :
    deviceLevels w (b :: rest) (8 / w.toNat + k) = deviceLevels w rest k := by
  have h : 0 < 8 / w.toNat := by cases w <;> decide
  unfold deviceLevels
  rw [Nat.add_div_left k h, Nat.add_mod_left]
  rfl

/-- The bits of the cycles in which a device gives bytes are the bits of the bytes (R99). -/
theorem laneBits_deviceLevels (w : LaneCount) (bytes : List Byte) :
    ((List.range (byteCycles w bytes.length)).flatMap fun k => laneBits w (deviceLevels w bytes k)) =
      bytes.flatMap bitsOf := by
  induction bytes with
  | nil => rw [show byteCycles w ([] : List Byte).length = 0 from Nat.zero_mul _]; rfl
  | cons b rest ih =>
    have hc : byteCycles w (b :: rest).length = 8 / w.toNat + byteCycles w rest.length := by
      simp only [byteCycles, List.length_cons, Nat.add_mul, Nat.one_mul, Nat.add_comm]
    rw [hc, List.range_add, List.flatMap_append, List.flatMap_map, List.flatMap_cons]
    congr 1
    · cases w <;> rfl
    · simp only [deviceLevels_cons]
      exact ih

/-- Lines that carry bytes as R99 gives, at the rising edges of a data phase in of that many bytes, give those bytes. -/
theorem Transaction.received_of_carries (t : Transaction) (bytes : List Byte) (h : t.inCount = bytes.length)
    (device : Nat → LineLevels)
    (carries : ∀ k, k < byteCycles t.lanes.data bytes.length →
      laneBits t.lanes.data (device k) = laneBits t.lanes.data (deviceLevels t.lanes.data bytes k)) :
    t.received device = bytes := by
  unfold Transaction.received
  rw [h]
  refine Eq.trans ?_ (bytesOf_bitsOf bytes)
  rw [← laneBits_deviceLevels t.lanes.data bytes]
  congr 1
  refine List.flatMap_congr fun k hk => ?_
  rw [List.mem_range] at hk
  have hin : t.inCount ≠ 0 := by
    intro e
    rw [← h, e] at hk
    simp [byteCycles] at hk
  have hd : k < t.dataCycles := by
    unfold Transaction.dataCycles byteCycles
    unfold byteCycles at hk
    rw [h, Nat.add_mul]
    omega
  rw [t.sampledAt_data (t.phaseAt_data hd) hin, carries k hk]

/-- The bytes that an end command carries are those its event has (R101). -/
theorem Transaction.received_deviceLevels (t : Transaction) (bytes : List Byte) (h : t.inCount = bytes.length) :
    t.received (deviceLevels t.lanes.data bytes) = bytes :=
  t.received_of_carries bytes h _ fun _ _ => rfl

/-! ### Ends of transactions with bytes in -/

theorem State.endReading_keeps (s : State) (bytes : List Byte) (effect : List Byte → State → State)
    (h : ∀ (b : List Byte) (t : State), t.Keeps (effect b t)) : s.Keeps (s.endReading bytes effect) := by
  unfold State.endReading
  split
  · exact .refl s
  · exact s.endTransaction_keeps _ (h _)

theorem State.endStatus_keeps (s : State) (status : Byte) (effect : Byte → State → State)
    (h : ∀ (b : Byte) (t : State), t.Keeps (effect b t)) : s.Keeps (s.endStatus status effect) :=
  s.endReading_keeps _ _ fun b t => h (b.headD 0#8) t

/-- The end of a transaction with bytes in whose result is wanted (R101). -/
theorem State.Ends.endReading {s : State} {d : Dev} {use : BusUse} {bytes : List Byte} (h : s.Ends d use bytes.length)
    (effect : List Byte → State → State) : s.endReading bytes effect = (effect bytes s.releaseBus).grantNext := by
  obtain ⟨t, hc, -, -, hn, -⟩ := h.onBus
  unfold State.endReading
  rw [hc]
  simp only [t.txn.received_deviceLevels bytes hn]
  exact h.endTransaction _

/-- The end of a status read whose result is wanted (R101). -/
theorem State.Ends.endStatus {s : State} {d : Dev} {use : BusUse} (h : s.Ends d use 1) (status : Byte)
    (effect : Byte → State → State) : s.endStatus status effect = (effect status s.releaseBus).grantNext :=
  State.Ends.endReading (bytes := [status]) h fun bytes => effect (bytes.headD 0#8)

/-- The end of a transaction whose result is discarded only frees the bus (R89, R91, R101). -/
theorem State.endReading_discarded {s : State} {t : OnBus} (hc : s.bus.cur = some t) (hl : t.live = false)
    (bytes : List Byte) (effect : List Byte → State → State) : s.endReading bytes effect = s.releaseBus.grantNext := by
  unfold State.endReading State.endTransaction
  rw [hc]
  simp only [hl, Bool.false_eq_true, if_false]

end Sys2Proof.Machine
end

