-- ==== Sys2Proof/Tests/Slice0.lean ====
section
/-! SUPPORT. The model's own tests: ill-formed commands that the check refuses, worked values of the spec, and for every
statement with hypotheses a concrete state and operands that meet them. -/

namespace Sys2Proof.Tests

/- One theorem after another: many at once would each hold a thread of the compiler's, and their stacks add up. -/
set_option Elab.async false

open Sys2Proof.Machine

/-! ### Ill-formed commands -/

theorem test_wellFormed_refuses_a_lead_that_names_a_transaction :
    [0x51#8, 0x52#8, 0x53#8, 0x54#8].all (fun b => !(Instr.unknownLead .a b).wellFormed) = true ∧
    (Instr.unknownLead .a 0x50#8).wellFormed = true := by decide

theorem test_wellFormed_refuses_a_length_that_is_not_over_long :
    (Instr.frameTooLong .a 1#8 0x22#8 288#16).wellFormed = false ∧
    (Instr.frameTooLong .a 1#8 0x22#8 289#16).wellFormed = true := by decide

theorem test_wellFormed_refuses_a_matching_check :
    (Instr.checkMismatch .a 1#8 0x13#8 [0#8] (crc16 (frameBody 1#8 0x13#8 [0#8]))).wellFormed = false ∧
    (Instr.checkMismatch .a 1#8 0x13#8 (List.replicate 289 0#8) 0#16).wellFormed = false ∧
    (Instr.checkMismatch .a 1#8 0x13#8 [0#8] 0#16).wellFormed = true := by decide +kernel

theorem test_wellFormed_refuses_a_frame_that_its_kind_accepts :
    (Instr.unknownKind .a 1#8 0x13#8 [0#8]).wellFormed = false ∧
    (Instr.unknownKind .a 1#8 0x99#8 (List.replicate 289 0#8)).wellFormed = false ∧
    (Instr.unknownKind .a 1#8 0x13#8 []).wellFormed = true ∧
    (Instr.unknownKind .a 1#8 0x99#8 (List.replicate 288 0#8)).wellFormed = true := by decide +kernel

theorem test_wellFormed_refuses_a_payload_above_256 :
    (Instr.program .a 1#8 0#8 0#32 0#8 ⟨0#8, 0#16⟩ (List.replicate 257 0#8)).wellFormed = false ∧
    (Instr.program .a 1#8 0#8 0#32 0#8 ⟨0#8, 0#16⟩ (List.replicate 256 0#8)).wellFormed = true := by decide +kernel

theorem test_wellFormed_refuses_no_data_and_too_much :
    (Instr.readDataEnd .d0 []).wellFormed = false ∧ (Instr.verifyReadEnd .d0 []).wellFormed = false ∧
    (Instr.readDataEnd .d0 (List.replicate 257 0#8)).wellFormed = false ∧
    (Instr.verifyReadEnd .d0 (List.replicate 257 0#8)).wellFormed = false ∧
    (Instr.readDataEnd .d0 (List.replicate 256 0#8)).wellFormed = true := by decide +kernel

/-! ### Worked values of the spec -/

/-- The check value that R157 works out, of the nine bytes 31h to 39h. -/
theorem test_crc_of_the_worked_example :
    crc16 [0x31#8, 0x32#8, 0x33#8, 0x34#8, 0x35#8, 0x36#8, 0x37#8, 0x38#8, 0x39#8] = 0x29B1#16 := by decide +kernel

theorem test_reset_is_what_a_release_leaves :
    nextOf (execResetnRelease false false .d0 { State.reset with resetn := false }) = some State.reset := by
  decide +kernel

/-- The six rows of the table of R27. -/
theorem test_granted_terms_of_the_table :
    let x := Settings.initial
    grantedTerm x 0 0 = 5000 ∧ grantedTerm x 2000 0 = 2000 ∧ grantedTerm x 2000 1 = 1 ∧ grantedTerm x 0 65000 = 60000 ∧
    grantedTerm { x with defaultTerm := 8000, maxTerm := 3000 } 0 0 = 3000 ∧
    grantedTerm { x with maxTerm := 10000 } 12000 0 = 10000 := by decide

/-- The five rows of the table of R177. -/
theorem test_postings_of_the_table :
    postTo ⟨5, .changed, 7#16⟩ [⟨5, .changed, 6#16⟩] = [⟨5, .changed, 7#16⟩] ∧
    postTo ⟨5, .leaseLost, 7#16⟩ [⟨5, .changed, 6#16⟩] = [⟨5, .leaseLost, 7#16⟩] ∧
    postTo ⟨5, .changed, 8#16⟩ [⟨5, .leaseLost, 7#16⟩] = [⟨5, .leaseLost, 8#16⟩] ∧
    postTo ⟨5, .retired, 7#16⟩ [⟨5, .leaseLost, 7#16⟩] = [⟨5, .retired, 7#16⟩] ∧
    postTo ⟨5, .changed, 1#16⟩ [⟨5, .retired, 7#16⟩] = [⟨5, .retired, 1#16⟩] := by decide

/-- The table of R181: reset values and ranges. -/
theorem test_settings_of_the_table :
    (List.range 11).map (fun i => (Settings.initial.value i, settingRange i)) =
      [(some 5000, some (100, 60000, 1)), (some 60000, some (100, 65535, 1)), (some 25, some (5, 1000, 1)),
       (some 4, some (1, 255, 1)), (some 600, some (10, 5000, 1)), (some 200, some (10, 1000, 1)),
       (some 500, some (100, 25500, 100)), (some 4, some (0, 15, 1)), (some 8, some (1, 16, 1)),
       (some 4, some (2, 32, 1)), (none, none)] := by decide

/-- The frame lengths of chapter 11: the empty frame and a notice frame. -/
theorem test_lengths_of_frames :
    emptyFrame.length = 9 ∧ (noticeFrame ⟨5, .retired, 7#16⟩).length = 13 := by decide +kernel

theorem test_status_after_reset : State.reset.linkStatus .a = 0x08#8 ∧ State.reset.secondStatus .a = 0x08#8 ∧
    State.reset.secondStatus .b = 0x00#8 := by decide +kernel

theorem test_capacity_24_has_4096_sectors : Profile.default.sectors = 4096 := by decide

/-! ### States of the tests -/

/-- A device that has been probed and is IDLE. -/
def idleSeq : Sequencer := { Sequencer.initial with state := .idle, probedId := some ⟨1#8, 2#8, 3#8⟩ }

/-- Both devices IDLE, nothing on the links, administrator Port A. -/
def quiet : State :=
  { State.blocksReset (some .a) ⟨.initial, .initial, .initial⟩ [] with seqs := ⟨idleSeq, idleSeq⟩ }

/-- A link with its select line low in a phase. -/
def low (phase : Phase) : Link := { Link.initial with selectLow := true, phase := phase }

/-- A frame can arrive on Port A. -/
def ready (s : State) : State := s.setLink .a (low .putHeader)

/-- An entry with a request. -/
def entryOf (st : EntryState) (tag : Byte) (q : Request) (d : Option Dev) (n : Option RegionId) : Entry :=
  { Entry.vacant with state := st, tag := some tag, kind := some q.code, number := some 0#16, device := d, region := n,
                      request := some q, payload := payloadOf q }

def noEpoch : EpochField := ⟨0#8, 0#16⟩
def aRead : Request := .read 0#8 0#32 16#16 noEpoch
def aProgram : Request := .program 0#8 0#32 1#8 noEpoch [0xAA#8, 0xBB#8]
def anErase : Request := .erase 0#8 0#16 4#32 noEpoch

/-- Region 0, LEASED by Port A and dirty; Port B waits for it. -/
def leasedRegion : Region :=
  { Region.preset .d0 [0x44#8] (some .a) with
    state := .leased, writeRights := .all, holder := some .a, granted := some 100, remaining := 0, dirty := true,
    queue := [⟨.b, 0, 0, 0⟩], watch := .all }

/-- Port A's Exchange: a QUEUED PROGRAM, an ACTIVE ERASE and a WAITING RELEASE, all on region 0. -/
def workOfA : Exchange :=
  { entries := ((Exchange.initial.entries.set 0 (entryOf .queued 1#8 aProgram (some .d0) (some 0))).set 1
      (entryOf .active 2#8 anErase (some .d0) (some 0))).set 2 (entryOf .waiting 3#8 (.release 0#8) none (some 0)),
    answers := [], order := [0, 1, 2], counter := 3#16 }

/-- An Exchange with one entry. -/
def one (e : Entry) : Exchange :=
  { Exchange.initial with
    entries := Exchange.initial.entries.set 0 e, order := [0], counter := 1#16,
    answers := if e.state = .answered then [0] else [] }

/-- A WAITING CLAIM of Port B for region 0. -/
def claimOfB : Entry := entryOf .waiting 9#8 (.claim 0#8 0#16 10#16) none (some 0)

/-- Region 0 leased by Port A with work, Port B waiting. -/
def busy (r : Region) : State := ({ quiet with exchs := ⟨workOfA, one claimOfB, .initial⟩ }).setRegion 0 r

/-- Region 0 RELEASING. -/
def releasingRegion : Region := { leasedRegion with state := .releasing, release := some 2, outstanding := [0, 1] }

/-- One entry of Port A runs on device 0, with its transaction on the bus. -/
def running (q : Request) (st : DevState) (use : BusUse) (bytesIn : Nat) : State :=
  { quiet with
    exchs := ⟨one (entryOf .active 2#8 q (some .d0) (some 0)), .initial, .initial⟩
    seqs := ⟨{ idleSeq with state := st, current := some ⟨.a, 0⟩, stepTimer := some 0, pollTimer := some 0,
                            dwellTimer := none, suspendTimer := some 0, stepTimeout := some 4, writeEnables := 1,
                            stepSuspendLimit := 4 }, idleSeq⟩
    bus := { cur := some { dev := .d0, txn := { opcodeOnly use 0#8 with inCount := bytesIn }, divider := 4, elapsed := 0,
                           live := true }, pointer := .d1, gap := 0 } }

/-- A profile with latch, fail, clear and suspend. -/
def fullProfile : Profile :=
  { Profile.default with failBit := some 5, clearOp := some 0x50#8, suspendSet := some ⟨0x75#8, 0x7A#8, 7⟩,
                         expectedId := some ⟨1#8, 2#8, 3#8⟩ }

/-! ### How the tests show a hypothesis -/

theorem allPorts_hold {P : Port → Prop} (a : P .a) (b : P .b) (c : P .c) (p : Port) : P p := by
  cases p
  · exact a
  · exact b
  · exact c

theorem allDevs_hold {P : Dev → Prop} (a : P .d0) (b : P .d1) (d : Dev) : P d := by
  cases d
  · exact a
  · exact b

/-- A request of Port A with tag 5 is admitted in slot k. -/
def admitsAt (s : State) (q : Request) (k : Slot) : Bool :=
  s.resetn && (s.link .a).awaitsFrame && acceptsFrame q.code q.wire.length && !(s.exch .a).tagHeld 5#8 &&
  (s.exch .a).vacantSlot == some k

theorem admits {s : State} {q : Request} {k : Slot} (h : admitsAt s q k = true) : s.Admits .a 5#8 q k := by
  simp only [admitsAt, Bool.and_eq_true, Bool.not_eq_true', beq_iff_eq] at h
  exact ⟨⟨h.1.1.1.1, h.1.1.1.2, h.1.1.2⟩, by decide, h.1.2, h.2⟩

/-- Every field of Exchange.WellFormed, as a test. -/
def formed (x : Exchange) : Bool :=
  decide x.order.Nodup && decide (∀ k : Slot, k ∈ x.order ↔ (x.entry k).state ≠ .vacant) &&
  decide x.answers.Nodup && decide (∀ k : Slot, k ∈ x.answers ↔ (x.entry k).state = .answered) &&
  decide (∀ k : Slot, (x.entry k).state = .vacant → x.entry k = Entry.vacant) &&
  decide (∀ k : Slot, (x.entry k).state.holdsTag = true → ((x.entry k).tag.any fun t => t != 0#8) = true) &&
  decide (∀ j k : Slot, j ≠ k → (x.entry j).state.holdsTag = true → (x.entry k).state.holdsTag = true →
    (x.entry j).tag ≠ (x.entry k).tag)

theorem wellFormed_of_formed {x : Exchange} (h : formed x = true) : x.WellFormed := by
  simp only [formed, Bool.and_eq_true, decide_eq_true_eq] at h
  refine ⟨h.1.1.1.1.1.1, h.1.1.1.1.1.2, h.1.1.1.1.2, h.1.1.1.2, h.1.1.2, fun k hk => ?_, h.2⟩
  have := h.1.2 k hk
  cases ht : (x.entry k).tag with
  | none => simp [ht] at this
  | some t => exact ⟨t, rfl, by simpa [ht] using this⟩

/-- The three Exchanges of a state are well formed. -/
theorem exchanges_formed {s : State} (h : (formed s.exchs.a && formed s.exchs.b && formed s.exchs.c) = true) (p : Port) :
    (s.exch p).WellFormed := by
  simp only [Bool.and_eq_true] at h
  cases p
  · exact wellFormed_of_formed h.1.1
  · exact wellFormed_of_formed h.1.2
  · exact wellFormed_of_formed h.2

/-- Every field of Region.WellFormed, as a test. -/
def regionFormed (r : Region) : Bool :=
  r.holder.isSome == (r.state == .leased || r.state == .releasing) && r.granted.isSome == r.holder.isSome &&
  (r.holder.isSome || r.remaining == 0) &&
  (!(r.state == .free || r.state == .opened || r.state == .retiring) || r.queue.isEmpty) &&
  decide (r.queue.length ≤ Config.queueLimit) && decide (r.queue.map ClaimRecord.port).Nodup &&
  (r.queue.all fun c => r.writeRights.has c.port) &&
  (r.holder.all fun p => (r.queue.all fun c => !(c.port == p)) && r.writeRights.has p)

theorem wellFormed_of_regionFormed {r : Region} (h : regionFormed r = true) : r.WellFormed := by
  simp only [regionFormed, Bool.and_eq_true, decide_eq_true_eq, beq_iff_eq] at h
  obtain ⟨⟨⟨⟨⟨⟨⟨h1, h2⟩, h3⟩, h4⟩, h5⟩, h6⟩, h7⟩, h8⟩ := h
  refine ⟨h1, h2, fun hn => by simpa [hn] using h3, fun hs => ?_, h5, h6, fun c hc => List.all_eq_true.mp h7 c hc,
    fun p hp c hc => ?_, fun p hp => ?_⟩
  · rcases hs with hs | hs | hs <;> simpa [hs] using h4
  · rw [hp] at h8
    simp only [Option.all_some, Bool.and_eq_true] at h8
    simpa using List.all_eq_true.mp h8.1 c hc
  · rw [hp] at h8
    simp only [Option.all_some, Bool.and_eq_true] at h8
    exact h8.2

/-- An entry stands WAITING with a kind. -/
def waits (s : State) (p : Port) (k : Slot) (kind : Byte) : Bool :=
  (s.entry p k).state == .waiting && (s.entry p k).kind == some kind

theorem waitsAs_of_waits {s : State} {p : Port} {k : Slot} {kind : Byte} (h : waits s p k kind = true) :
    s.waitsAs p k kind := by
  simpa [waits, State.waitsAs] using h

/-- The waiting request of a device stands WAITING as a SET_PROFILE or RECOVER for it. -/
def requestWaits (s : State) (d : Dev) : Bool :=
  (s.seq d).waitingRequest.all fun e =>
    (waits s e.port e.slot 0x34#8 || waits s e.port e.slot 0x35#8) && (s.entry e.port e.slot).device == some d

/-- The references of a state with no pending retire and no answer on its way out are right. -/
def referred (s : State) : Bool :=
  decide (∀ n : RegionId, ∀ c ∈ (s.region n).queue, waits s c.port c.slot 0x11#8 = true ∧
    (s.entry c.port c.slot).region = some n) &&
  decide (∀ (n : RegionId) (k : Slot), (s.region n).release = some k →
    ((s.region n).holder.any fun p => waits s p k 0x13#8 && (s.entry p k).region == some n) = true) &&
  decide (∀ n : RegionId, (s.region n).pendingRetire = none) &&
  requestWaits s .d0 && requestWaits s .d1 &&
  s.links.a.item.isNone && s.links.b.item.isNone && s.links.c.item.isNone

theorem waitsReferred_of_referred {s : State} (h : referred s = true) : s.WaitsReferred := by
  simp only [referred, Bool.and_eq_true, decide_eq_true_eq, Option.isNone_iff_eq_none] at h
  obtain ⟨⟨⟨⟨⟨⟨⟨h1, h2⟩, h3⟩, h4⟩, h5⟩, h6⟩, h7⟩, h8⟩ := h
  refine ⟨fun n c hc => ⟨waitsAs_of_waits (h1 n c hc).1, (h1 n c hc).2⟩, fun n k hk => ?_, fun n e he => ?_,
    fun d e he => ?_, fun p k hk => ?_⟩
  · have := h2 n k hk
    cases hp : (s.region n).holder with
    | none => simp [hp] at this
    | some p =>
      simp only [hp, Option.any_some, Bool.and_eq_true, beq_iff_eq] at this
      exact ⟨p, rfl, waitsAs_of_waits this.1, this.2⟩
  · rw [h3 n] at he; cases he
  · have : requestWaits s d = true := by
      cases d
      · exact h4
      · exact h5
    simp only [requestWaits, he, Option.all_some, Bool.and_eq_true, Bool.or_eq_true, beq_iff_eq] at this
    exact ⟨this.1.imp waitsAs_of_waits waitsAs_of_waits, this.2⟩
  · cases p
    · exact absurd (h6.symm.trans hk) (by simp)
    · exact absurd (h7.symm.trans hk) (by simp)
    · exact absurd (h8.symm.trans hk) (by simp)

/-- A byte can be shifted in whole. -/
theorem shifting {s : State} {p : Port} {phase : Phase} (h : s.shifts p phase = true) : s.Shifts p phase :=
  (s.shifts_iff p phase).mp h

/-! ### Single commands on small states -/

theorem test_claim_on_a_preset_region :
    ((nextOf (exec (.claim .a 5#8 0#8 0#16 0#16) (ready quiet))).map fun t =>
      decide ((t.region 0).state = .leased ∧ (t.region 0).holder = some .a ∧ (t.region 0).remaining = 5000 ∧
        (t.entry .a 0).result = some .done ∧ (t.exch .a).answers = [0])) = some true := by decide +kernel

theorem test_expiry_marks_the_active_range :
    ((nextOf (exec (.leaseExpiry 0) ((busy leasedRegion).setExch .a
        { ({ workOfA with order := [0, 1] } : Exchange).put 2 Entry.vacant with counter := 3#16 }))).map fun t =>
      decide ((t.region 0).state = .closing ∧ (t.entry .a 0).result = some .leaseLost ∧ (t.entry .a 1).stop = .leaseLost ∧
        t.noticeList .a = [⟨0, .leaseLost, 0#16⟩])) = some true := by decide +kernel

theorem test_release_waits_for_outstanding_work :
    ((nextOf (exec (.release .a 5#8 0#8) (ready (busy leasedRegion)))).map fun t =>
      decide ((t.region 0).state = .releasing ∧ (t.region 0).release = some 3 ∧ (t.region 0).outstanding = [0, 1])) =
      some true := by decide +kernel

theorem test_probe_makes_the_device_idle :
    ((nextOf (exec (.idReadEnd .d0 1#8 2#8 3#8) State.reset)).map fun t =>
      decide ((t.seq .d0).state = .idle ∧ (t.seq .d0).probedId = some ⟨1#8, 2#8, 3#8⟩ ∧
        t.bus.cur.map OnBus.dev = some .d1 ∧ t.bus.pointer = .d0 ∧ t.bus.gap = 8)) = some true := by decide +kernel

theorem test_command_that_is_not_due_changes_nothing :
    nextOf (exec (.readDataEnd .d0 [1#8]) quiet) = some quiet ∧ nextOf (exec (.takeDelivery .b) quiet) = some quiet := by
  decide +kernel

/-- A frame of a known kind with a wrong length keeps its parameters in its entry (R139). -/
theorem test_unread_frame_keeps_its_parameters :
    ((nextOf (exec (.unknownKind .a 5#8 0x12#8 [1#8, 7#8]) (ready quiet))).map fun t =>
      decide ((t.entry .a 0).request = some (.unread 0x12#8 [1#8, 7#8]) ∧ (t.entry .a 0).region = some 1 ∧
        (t.entry .a 0).result = some .malformed)) = some true := by decide +kernel

/-- The lead bytes of R192. -/
theorem test_lead_bytes_of_the_table :
    leadKind 0x51#8 = some .put ∧ leadKind 0x52#8 = some .linkReset ∧ leadKind 0x53#8 = some .status ∧
    leadKind 0x54#8 = some .take ∧ leadKind 0x55#8 = none ∧ leadKind 0x00#8 = none := by decide

/-- A10Fh, bit by bit, and 0 after it; released with the line high and with RESETN low. -/
theorem test_data_output :
    (let l := { low .statusOut with shiftOut := [0xA1#8, 0x0F#8] }
     (List.range 18).map l.outBit = [true, false, true, false, false, false, false, true,
       false, false, false, false, true, true, true, true, false, false]) ∧
    (ready quiet).dataOut .a = .drive false ∧ quiet.dataOut .a = .released ∧
    ({ ready quiet with resetn := false } : State).dataOut .a = .released := by decide

/-- Ten bits with the line low: one byte, and two bits of the next. -/
theorem test_bits_complete_bytes :
    (low .lead).shiftIn [false, true, false, true, false, false, false, true, true, false] =
      ({ low .lead with bits := [true, false] }, [0x51#8]) := by decide

/-- Port A's PROGRAM on region 9 and Port B's stopped range on region 4, both CLOSING; Port C watches both regions, and Port
B's CLAIM, admitted before its range, waits for region 9. -/
def twoEnds : State :=
  let e9 := entryOf .active 1#8 (.program 9#8 0#32 0#8 noEpoch [1#8]) (some .d0) (some 9)
  let e4 := { entryOf .active 2#8 (.erase 4#8 0#16 2#32 noEpoch) (some .d0) (some 4) with stop := .leaseLost }
  let closing := { leasedRegion with state := .closing, holder := none, granted := none, queue := [] }
  let s : State :=
    { quiet with
      exchs := ⟨one e9, { (one e4).put 1 (entryOf .waiting 3#8 (.claim 9#8 0#16 1#16) none (some 9)) with
        order := [1, 0] }, .initial⟩
      seqs := ⟨{ idleSeq with state := .transfer, current := some ⟨.a, 0⟩ }, idleSeq⟩ }
  (s.setRegion 9 { closing with queue := [⟨.b, 0, 5, 1⟩] }).setRegion 4 closing

/-- The ends of one action: notices by rising region number (R178), and the range's own answer before the CLAIM's
(log 23). -/
theorem test_two_ends_in_one_action :
    (let t := twoEnds.endOperation .d0 ⟨.a, 0⟩ .done .none none
     t.noticeList .c = [⟨4, .changed, 1#16⟩, ⟨9, .changed, 1#16⟩] ∧ (t.exch .b).answers = [0, 1] ∧
     (t.entry .b 0).result = some .leaseLost ∧ (t.entry .b 1).result = some .done ∧ (t.region 9).holder = some .b ∧
     (t.region 4).state = .opened) := by decide +kernel

/-- The ex-holder of a region in CLOSING is granted it again by its own CLAIM (R38, R48). -/
theorem test_ex_holder_claims_again :
    (let t := (busy { leasedRegion with state := .closing, holder := none }).leaseEnd 0 .b none
     (t.region 0).holder = some .b ∧ (t.entry .b 0).result = some .done) := by decide +kernel

/-! ### The hypotheses of the statements can be met -/

theorem test_hyp_StepRunsTheFrontCommand : ({ quiet with pending := [.msTick] } : State).pending = .msTick :: [] := rfl

theorem test_hyp_BusCyclesAndDurations :
    quiet.pending = [] ∧ quiet.resetn = true ∧ quiet.bus.gap = 0 ∧ quiet.bus.cur = none ∧
    ({ quiet with resetn := false } : State).resetn = false ∧ quiet.releaseBus.bus.gap ≠ 0 ∧
    (∃ t, State.reset.bus.cur = some t ∧ State.reset.bus.gap = 0 ∧ t.elapsed < t.txn.cycles * t.divider ∧
      ({ t with elapsed := 128 } : OnBus).txn.cycles * t.divider ≤ 128) ∧
    (List.replicate 256 0#8).length = 256 ∧ fullProfile.valid = true := by
  refine ⟨rfl, rfl, rfl, rfl, rfl, by decide, ⟨_, rfl, rfl, ?_, ?_⟩, by decide +kernel, by decide⟩ <;> decide

theorem test_hyp_ResetnLowStopsThePart :
    ({ quiet with resetn := false } : State).resetn = false ∧ (quiet.link .a).selectLow = false ∧
    (({ ready quiet with resetn := false } : State).link .a).selectLow = true ∧ quiet.resetn = true := by decide

theorem test_hyp_ReleaseTakesTheResetState :
    (Instr.resetnRelease false true .d1 = .resetnRelease false true .d1) ∧
    ({ quiet with resetn := false } : State).resetn = false := by decide

theorem test_hyp_TicksAndWaitExpiries :
    (busy leasedRegion).resetn = true ∧
    ((busy leasedRegion).region 0).queue.find? (fun x => x.port == .b) = some ⟨.b, 0, 0, 0⟩ := by decide +kernel

/-- Region 0 without a RELEASE in its way: the RELEASE of Port A is left out. -/
def expiring : State :=
  ({ quiet with exchs := ⟨({ workOfA with order := [0, 1] } : Exchange).put 2 Entry.vacant, one claimOfB, .initial⟩
     }).setRegion 0 leasedRegion

theorem test_hyp_LeaseExpiryIsALeaseLoss :
    expiring.resetn = true ∧ (expiring.region 0).state = .leased ∧ (expiring.region 0).remaining = 0 ∧
    (expiring.region 0).holder = some .a ∧ (∀ q, (expiring.exch q).WellFormed) ∧ expiring.WaitsReferred ∧
    (expiring.entry .a 0).queuedWriteOn 0 = true ∧ (expiring.entry .a 1).activeRangeOn 0 = true ∧
    (expiring.entry .a 1).stop = .none := by
  refine ⟨rfl, by decide +kernel, by decide +kernel, by decide +kernel, exchanges_formed (by decide +kernel),
    waitsReferred_of_referred (by decide +kernel), by decide +kernel, by decide +kernel, by decide +kernel⟩

theorem test_hyp_LeaseEndBooksAndHandsOver :
    ((busy releasingRegion).region 0).queue = [⟨.b, 0, 0, 0⟩] ∧ Port.b ≠ .a ∧
    ((busy releasingRegion).entry .b 0).state = .waiting ∧ ((busy releasingRegion).entry .b 0).isErase = false ∧
    ((busy releasingRegion).region 0).dirty = true ∧ ((busy releasingRegion).region 0).watch.has .c = true ∧
    ((busy releasingRegion).entry .a 2).state = .waiting ∧ ((busy releasingRegion).entry .a 2).isErase = false ∧
    (quiet.region 0).queue = [] := by decide +kernel

theorem test_hyp_LinkTransactionsBeginAndEnd :
    quiet.resetn = true ∧ (quiet.link .a).selectLow = false ∧ ((ready quiet).link .a).selectLow = true ∧
    ((ready quiet).link .a).phase = .putHeader ∧ (low .lead).selectLow = true ∧ (low .lead).phase ≠ .putHeader ∧
    (low .lead).phase ≠ .putBody ∧ (low .lead).phase ≠ .putCheck ∧
    (quiet.setLink .a (low .lead)).shifts .a .lead = true ∧
    (one (entryOf .answered 1#8 aRead none none)).answers = 0 :: [] ∧ (quiet.exch .a).answers = [] ∧
    ((quiet.setNotices .a [⟨0, .changed, 0#16⟩]).noticeList .a) = ⟨0, .changed, 0#16⟩ :: [] ∧
    quiet.noticeList .a = [] ∧ (0x50#8 : Byte) ≠ 0x51#8 ∧ (0x50#8 : Byte) ≠ 0x52#8 ∧ (0x50#8 : Byte) ≠ 0x53#8 ∧
    (0x50#8 : Byte) ≠ 0x54#8 := by decide +kernel

theorem test_hyp_StatusBytesAndAttentionFollowTheRecords :
    (allSlots.length ≤ 8 ∧ (allRegions.map fun n => (⟨n, .changed, 0#16⟩ : Notice)).length ≤ 32) ∧
    (quiet.exch .a).answers.length ≤ 8 ∧ (quiet.noticeList .a).length ≤ 32 ∧
    (let s := ({ quiet with exchs := ⟨one (entryOf .answered 1#8 aRead none none), .initial, .initial⟩ } : State)
     s.attention .a = true ∧
     (s.setLink .a { Link.initial with mask := ⟨true, false, false⟩ }).attention .a = false) := by decide +kernel

theorem test_hyp_ReceiverDiscardsBadFrames :
    (ready quiet).resetn = true ∧ ((ready quiet).link .a).awaitsFrame = true ∧ 288 < (289#16 : Half).toNat ∧
    (List.replicate 288 0#8).length ≤ 288 ∧ crc16 (frameBody 1#8 0x13#8 [0#8]) ≠ 0#16 ∧
    (low .lead).bits = [] ∧ (low .lead).selectLow = true ∧ Link.initial.bits = [] ∧ Link.initial.selectLow = false := by decide +kernel

/-- All eight entries of Port A are taken. -/
def fullUp : State :=
  ready { quiet with exchs := ⟨{ Exchange.initial with
    entries := Vector.ofFn fun k => entryOf .queued (BitVec.ofNat 8 (k.val + 10)) aRead (some .d0) (some 0),
    order := allSlots }, .initial, .initial⟩ }

theorem test_hyp_FrameTestsDecideAdmission :
    requestOf (.release .a 5#8 0#8) = some (.a, 5#8, .release 0#8) ∧ (ready quiet).Receives .a (.release 0#8) ∧
    (ready quiet).Admits .a 5#8 (.release 0#8) 0 ∧
    ((ready (busy leasedRegion)).exch .a).tagHeld 2#8 = true ∧
    (fullUp.exch .a).tagHeld 5#8 = false ∧ (fullUp.exch .a).vacantSlot = none ∧ fullUp.Receives .a (.release 0#8) ∧
    acceptsFrame 0x99#8 [0#8].length = false ∧ acceptsFrame 0x21#8 [0#8].length = false ∧ acceptsFrame 0x34#8 0 = false :=
  ⟨rfl, (admits (k := 0) (by decide +kernel)).toReceives, admits (by decide +kernel), by decide +kernel,
    by decide +kernel, by decide +kernel, ⟨by decide +kernel, by decide +kernel, by decide +kernel⟩, by decide, by decide,
    by decide⟩

theorem test_hyp_TakingAndAnsweringAnEntry :
    (ready quiet).Admits .a 5#8 (.claim 0#8 0#16 0#16) 0 ∧
    ((busy leasedRegion).entry .a 0).state = .queued ∧ ((busy leasedRegion).entry .a 1).state = .active ∧
    ((busy leasedRegion).entry .a 2).state = .waiting ∧ ((busy leasedRegion).entry .a 3).state = .vacant :=
  ⟨admits (by decide +kernel), by decide +kernel, by decide +kernel, by decide +kernel, by decide +kernel⟩

/-- Port A's link in TAKE_OUT with an item. -/
def taking (i : TakeItem) : State := quiet.setLink .a { low .takeOut with item := some i }

/-- Port A's link in STATUS_OUT with two bytes to send. -/
def statusing : State := quiet.setLink .a { low .statusOut with shiftOut := [1#8, 2#8] }

theorem test_hyp_DeliveryAndStatusTakeEffect :
    (∀ i, (taking i).Shifts .a .takeOut ∧ ((taking i).link .a).item = some i) ∧ statusing.Shifts .a .statusOut ∧
    (statusing.link .a).shiftOut = [1#8, 2#8] :=
  ⟨fun i => ⟨shifting (by rfl), rfl⟩, shifting (by decide), rfl⟩

/-- A LINK RESET of Port A waits for its confirm byte. -/
def resetting (s : State) : State := s.setLink .a (low .resetConfirm)

theorem test_hyp_PortResetAtLinkAndExchange :
    (resetting (busy leasedRegion)).Shifts .a .resetConfirm ∧ (0#8 : Byte) ≠ 0x6D#8 ∧ ((resetting (busy leasedRegion)).entry .a 1).state = .active ∧
    ((resetting (busy leasedRegion)).entry .a 0).state ≠ .active :=
  ⟨shifting (by decide +kernel), by decide, by decide +kernel, by decide +kernel⟩

theorem test_hyp_PortResetAtTheRegionTable :
    (resetting (busy leasedRegion)).Shifts .a .resetConfirm ∧
    ((resetting (busy leasedRegion)).region 0).holder = some .a ∧
    ((resetting (busy leasedRegion)).region 1).holder ≠ some .a :=
  ⟨shifting (by decide +kernel), by decide +kernel, by decide +kernel⟩

theorem test_hyp_NumbersBeyondTheTableAreFree :
    (∀ n, regionOf 32#8 = some n → (quiet.region n).state = .free) ∧
    (∀ n, regionOf 31#8 = some n → (quiet.region n).state = .free) ∧
    (ready quiet).Admits .a 5#8 (.findNumber 32#8) 0 ∧ (ready quiet).Admits .a 5#8 (.read 32#8 0#32 1#16 noEpoch) 0 ∧
    (ready quiet).Admits .a 5#8 (.program 32#8 0#32 0#8 noEpoch [1#8]) 0 ∧
    (ready quiet).Admits .a 5#8 (.setRights 255#8 7#8 7#8) 0 ∧ (ready quiet).Admits .a 5#8 (.renew 32#8 0#16) 0 ∧
    epochOf noEpoch ≠ none ∧ verifyOf 0#8 ≠ none ∧ rightsOf 7#8 ≠ none ∧ (ready quiet).admin = some .a :=
  ⟨by decide +kernel, by decide +kernel, admits (by decide +kernel), admits (by decide +kernel),
    admits (by decide +kernel), admits (by decide +kernel), admits (by decide +kernel), by decide, by decide, by decide,
    by decide⟩

theorem test_hyp_ClaimIsGrantedOnAnOpenRegion :
    (ready quiet).Admits .a 5#8 (.claim 0#8 0#16 0#16) 0 ∧ regionOf 0#8 = some 0 ∧
    ((ready quiet).region 0).state = .opened ∧ ((ready quiet).region 0).writeRights.has .a = true ∧
    ((ready quiet).region 0).WellFormed ∧ (ready quiet).leaseCount .a < 4 ∧ Settings.initial.inRange := by
  refine ⟨admits (by decide +kernel), by decide, by decide +kernel, by decide +kernel, ?_, by decide +kernel, ?_⟩
  · exact wellFormed_of_regionFormed (by decide +kernel)
  · intro id v h
    fin_cases id <;> (cases h; decide)

theorem test_hyp_ClaimWaitsOrIsRefused :
    (let s := ready ((busy leasedRegion).setRegion 0 { leasedRegion with holder := some .c, queue := [⟨.b, 0, 0, 0⟩] })
     s.Admits .a 5#8 (.claim 0#8 0#16 1#16) 3 ∧ (s.region 0).state = .leased ∧ (s.region 0).writeRights.has .a = true ∧
     (s.region 0).holder ≠ some .a ∧ (∀ c ∈ (s.region 0).queue, c.port ≠ .a) ∧ s.leaseCount .a < 4 ∧
     (s.region 0).queue.length < 2 ∧ (s.region 0).state ≠ .free) ∧
    2 ≤ [ClaimRecord.mk .b 0 0 0, ⟨.c, 0, 0, 0⟩].length :=
  ⟨⟨admits (by decide +kernel), by decide +kernel, by decide +kernel, by decide +kernel, by decide +kernel,
    by decide +kernel, by decide +kernel, by decide +kernel⟩, by decide⟩

theorem test_hyp_RenewAndRelease :
    (ready (busy leasedRegion)).Admits .a 5#8 (.renew 0#8 0#16) 3 ∧
    (ready (busy leasedRegion)).Admits .a 5#8 (.release 0#8) 3 ∧ regionOf 0#8 = some 0 ∧
    ((ready (busy leasedRegion)).region 0).state = .leased ∧
    ((ready (busy leasedRegion)).region 0).holder = some .a ∧
    (ready (busy leasedRegion)).outstandingFor .a 0 ≠ [] ∧ (ready (quiet.setRegion 0 leasedRegion)).outstandingFor .a 0 = [] ∧
    (∀ n, regionOf 0#8 = some n → ((ready quiet).region n).state ≠ .leased ∨ ((ready quiet).region n).holder ≠ some .a) ∧
    (ready quiet).Admits .a 5#8 (.renew 0#8 0#16) 0 :=
  ⟨admits (by decide +kernel), admits (by decide +kernel), by decide, by decide +kernel, by decide +kernel,
    by decide +kernel, by decide +kernel, by decide +kernel, admits (by decide +kernel)⟩

theorem test_hyp_OperationEndsReachTheRegion :
    releasingRegion.state = .releasing ∧ releasingRegion.holder = some .a ∧ (0 : Slot) ∈ releasingRegion.outstanding ∧
    releasingRegion.outstanding.erase 0 ≠ [] ∧ ({ releasingRegion with outstanding := [1] } : Region).outstanding = [1] ∧
    ((busy { leasedRegion with state := .closing, holder := none }).region 0).state = .closing ∧
    (busy { leasedRegion with state := .retiring }).inProgress 0 = true ∧
    (quiet.setRegion 0 { leasedRegion with state := .retiring }).inProgress 0 = false ∧
    ((quiet.setRegion 0 { leasedRegion with state := .retiring }).region 0).state = .retiring ∧
    (quiet.region 0).state = .opened := by decide +kernel

theorem test_hyp_WatchAndUnwatchChangeTheWatchSet :
    regionOf 31#8 = some 31 ∧ regionOf 0#8 = some 0 ∧ ((ready quiet).region 0).state ≠ .free ∧
    (∀ n, regionOf 31#8 = some n → ((ready quiet).region n).state = .free) ∧
    (ready quiet).Admits .a 5#8 (.watch 0#8) 0 ∧ (ready quiet).Admits .a 5#8 (.unwatch 0#8) 0 :=
  ⟨by decide, by decide, by decide +kernel, by decide +kernel, admits (by decide +kernel), admits (by decide +kernel)⟩

theorem test_hyp_LookupsFindTheirRegion :
    (ready quiet).Admits .a 5#8 (.findNumber 0#8) 0 ∧ ((ready quiet).region 0).state ≠ .free ∧
    (ready quiet).Admits .a 5#8 (.findAddress 1#8 0xFFFFFF#32) 0 ∧ devOf 2#8 = none ∧ devOf 1#8 = some .d1 ∧
    ((ready quiet).region 1).device = some .d1 ∧ ((ready quiet).region 1).state ≠ .free ∧
    ((ready quiet).region 1).baseSector ≤ (0xFFFFFF#32 : Word).toNat / 4096 ∧
    (0xFFFFFF#32 : Word).toNat / 4096 < ((ready quiet).region 1).baseSector + ((ready quiet).region 1).sectorCount ∧
    (∀ m, m < (1 : RegionId) → ((ready quiet).region m).covers .d1 ((0xFFFFFF#32 : Word).toNat / 4096) = false) ∧
    (∀ n, ((ready quiet).region n).state ≠ .free → ((ready quiet).region n).device = some .d1 →
      (0x1000000#32 : Word).toNat / 4096 < ((ready quiet).region n).baseSector ∨
      ((ready quiet).region n).baseSector + ((ready quiet).region n).sectorCount ≤ (0x1000000#32 : Word).toNat / 4096) :=
  ⟨admits (by decide +kernel), by decide +kernel, admits (by decide +kernel), by decide, by decide, by decide +kernel,
    by decide +kernel, by decide +kernel, by decide +kernel, by decide +kernel, by decide +kernel⟩

/-- The label field DEV1. -/
def labelDev1 : LabelField := ⟨4#8, #v[0x44#8, 0x45#8, 0x56#8, 0x31#8, 0#8, 0#8, 0#8, 0#8]⟩

theorem test_hyp_LookupsFindTheirRegion_label :
    (ready quiet).Admits .a 5#8 (.findLabel labelDev1) 0 ∧ labelDev1.length.toNat ≤ 8 ∧ labelDev1.length ≠ 0#8 ∧
    ((ready quiet).region 1).label = labelDev1.bytes.toList.take labelDev1.length.toNat ∧
    (∀ m, m < (1 : RegionId) → ((ready quiet).region m).carries (labelDev1.bytes.toList.take labelDev1.length.toNat) = false) ∧
    8 < (9#8 : Byte).toNat ∧
    (∀ n, ((ready quiet).region n).state ≠ .free → ((ready quiet).region n).label ≠ labelDev1.bytes.toList.take 8) :=
  ⟨admits (by decide +kernel), by decide, by decide, by decide +kernel, by decide +kernel, by decide, by decide +kernel⟩

theorem test_hyp_OnlyTheAdministratorIsObeyed :
    requestOf (.retire .a 5#8 0#8) = some (.a, 5#8, .retire 0#8) ∧ (Request.retire 0#8).code = 0x32#8 ∧
    (ready { quiet with admin := some .b }).Admits .a 5#8 (.retire 0#8) 0 ∧
    (ready { quiet with admin := some .b }).admin ≠ some .a ∧ (ready { quiet with admin := none }).admin ≠ some .a :=
  ⟨rfl, rfl, admits (by decide +kernel), by decide, by decide⟩

/-- Device 0 has one region, in sectors 0 to 7. -/
def small : State := ready (quiet.setRegion 0 { Region.preset .d0 [0x44#8] (some .a) with sectorCount := 8 })

/-- An empty label field. -/
def noLabel : LabelField := ⟨0#8, Vector.replicate 8 0#8⟩

theorem test_hyp_DefineIsCheckedAndWrites :
    small.Admits .a 5#8 (.define 0#8 8#16 4088#32 noLabel 7#8 0#8 0#16) 0 ∧ small.admin = some .a ∧
    devOf 0#8 = some .d0 ∧ labelOf noLabel = some [] ∧ rightsOf 7#8 = some .all ∧ rightsOf 0#8 = some .empty ∧
    (small.seq .d0).state ≠ .absent ∧ 8 + 4088 ≤ 2 ^ ((small.profile .d0).capacityExp - 12) ∧
    (∀ m, (small.region m).state ≠ .free → (small.region m).device = some .d0 →
      8 + 4088 ≤ (small.region m).baseSector ∨ (small.region m).baseSector + (small.region m).sectorCount ≤ 8) ∧
    (small.region 2).state = .free ∧ (∀ m, m < (2 : RegionId) → (small.region m).state ≠ .free) ∧
    rightsOf 8#8 = none ∧ devOf 2#8 = none :=
  ⟨admits (by decide +kernel), by decide, by decide, by decide, by decide, by decide, by decide +kernel,
    by decide +kernel, by decide +kernel, by decide +kernel, by decide +kernel, by decide, by decide⟩

theorem test_hyp_RetireAndSetRights :
    (let s := ready (busy { releasingRegion with writeRights := ⟨true, true, false⟩ })
     s.Admits .a 5#8 (.retire 0#8) 3 ∧ s.Admits .a 5#8 (.setRights 0#8 7#8 0#8) 3 ∧ s.admin = some .a ∧
     (s.region 0).state ≠ .free ∧ (s.region 0).state ≠ .retiring ∧ (∀ q, (s.exch q).WellFormed) ∧ s.WaitsReferred ∧
     s.inProgress 0 = true ∧ (s.entry .a 0).state = .queued ∧ (s.entry .a 1).activeRangeOn 0 = true ∧
     (s.entry .a 1).stop = .none ∧ rightsOf 0#8 = some .empty ∧ (s.region 0).holder = some .a ∧ (s.region 0).WellFormed ∧
     (s.entry .a 0).queuedWriteOn 0 = true ∧ (s.region 0).release = some 2 ∧ rightsOf 7#8 = some .all ∧
     (s.region 0).queue = [⟨.b, 0, 0, 0⟩]) ∧
    (ready quiet).Admits .a 5#8 (.retire 0#8) 0 ∧ (ready quiet).inProgress 0 = false ∧ (ready quiet).WaitsReferred := by
  refine ⟨⟨admits (by decide +kernel), admits (by decide +kernel), by decide, by decide +kernel, by decide +kernel,
    exchanges_formed (by decide +kernel), waitsReferred_of_referred (by decide +kernel), by decide +kernel,
    by decide +kernel, by decide +kernel, by decide +kernel, by decide, by decide +kernel, ?_, by decide +kernel,
    by decide +kernel, by decide, by decide +kernel⟩,
    admits (by decide +kernel), by decide +kernel, waitsReferred_of_referred (by decide +kernel)⟩
  exact wellFormed_of_regionFormed (by decide +kernel)

theorem test_hyp_SetProfileAndRecoverStart :
    (ready quiet).Admits .a 5#8 (.setProfile 0#8 fullProfile.record) 0 ∧
    parseProfile fullProfile.record = some fullProfile ∧ ((ready quiet).seq .d0).state = .idle ∧
    (∀ n, ((ready quiet).region n).device = some .d0 →
      ((ready quiet).region n).state = .free ∨ ((ready quiet).region n).state = .opened) ∧
    (∀ n, ((ready quiet).region n).device = some .d0 → ((ready quiet).region n).state ≠ .free →
      ((ready quiet).region n).baseSector + ((ready quiet).region n).sectorCount ≤ 2 ^ (fullProfile.capacityExp - 12)) ∧
    (ready quiet).Admits .a 5#8 (.recover 0#8) 0 ∧ ((ready quiet).profile .d0).resetOps = [0x66#8, 0x99#8] ∧
    ({ fullProfile with resetOps := [] } : Profile).valid = true ∧
    ((ready State.reset).seq .d0).state ≠ .faulted ∧ ((ready State.reset).seq .d0).state ≠ .idle ∧
    (ready quiet).Admits .a 5#8 (.setProfile 2#8 fullProfile.record) 0 ∧ devOf 2#8 = none ∧
    (ready quiet).Admits .a 5#8 (.recover 2#8) 0 ∧ parseProfile { fullProfile.record with busyBit := 8#8 } = none ∧
    devOf 0#8 = some .d0 ∧ (ready quiet).admin = some .a :=
  ⟨admits (by decide +kernel), by decide +kernel, by decide +kernel, by decide +kernel, by decide +kernel,
    admits (by decide +kernel), by decide +kernel, by decide +kernel, by decide +kernel, by decide +kernel,
    admits (by decide +kernel), by decide, admits (by decide +kernel), by decide, by decide, by decide⟩

/-- The refusals of SET_PROFILE, one after another (R123). -/
theorem test_refusals_of_set_profile :
    (let f := fullProfile.record
     [(ready quiet, 2#8, f), (ready quiet, 0#8, { f with busyBit := 8#8 }), (ready State.reset, 0#8, f),
       (ready (busy leasedRegion), 0#8, f), (ready quiet, 0#8, { f with capacity := 20#8 })].map fun x =>
       (nextOf (exec (.setProfile .a 5#8 x.2.1 x.2.2) x.1)).bind fun t => ((t.exch .a).answers.getLast?).bind fun k =>
         (t.entry .a k).result) =
     [some .malformed, some .malformed, some .busy, some .busy, some .badRange] := by decide +kernel

theorem test_hyp_TakeFramesAndDataOutputCarryTheirBytes :
    (ready quiet).resetn = true ∧ ((ready quiet).link .a).selectLow = true ∧ (quiet.link .a).selectLow = false ∧
    (low .lead).bits.length + 13 = 8 * 1 + 5 ∧
    (let e := { entryOf .answered 7#8 (.claim 0#8 0#16 0#16) none (some 0) with
                  result := some .done, values := .claim 5000 3#16 }
     e.tag = some 7#8 ∧ e.kind = some 0x11#8 ∧ e.result = some .done ∧ e.number = some 0#16 ∧
     e.values.wire e.payload = [0x13#8, 0x88#8, 0x00#8, 0x03#8] ∧ (e.values.wire e.payload).length < 65536) := by
  decide +kernel

theorem test_hyp_ConfigureSetsOneSetting :
    (ready quiet).Admits .a 5#8 (.configure 6#8 25500#16) 0 ∧ (ready quiet).admin = some .a ∧
    ({ quiet with admin := none } : State).admin ≠ some .a ∧
    (ready quiet).settings.value 6 = some 500 ∧ settingRange 6 = some (100, 25500, 100) ∧ 25500 % 100 = 0 ∧
    25500 < (25501#16 : Half).toNat ∧ 10 ≤ (10#8 : Byte).toNat :=
  ⟨admits (by decide +kernel), by decide, by decide, by decide, by decide, by decide, by decide, by decide⟩

theorem test_hyp_ReportsAndSetAttention :
    (ready quiet).Admits .a 5#8 (.readSetting 9#8) 0 ∧ (ready quiet).settings.value 9 = some 4 ∧
    (ready quiet).Admits .a 5#8 (.readSetting 10#8) 0 ∧ (ready quiet).Admits .a 5#8 (.readSetting 11#8) 0 ∧
    (ready quiet).Admits .a 5#8 (.deviceInfo 1#8) 0 ∧ devOf 1#8 = some .d1 ∧
    (ready quiet).Admits .a 5#8 (.deviceInfo 2#8) 0 ∧ (ready quiet).Admits .a 5#8 (.setAttention 7#8) 0 ∧
    (7#8 : Byte).toNat < 8 ∧ (ready quiet).Admits .a 5#8 (.setAttention 8#8) 0 ∧
    (((nextOf (exec (.readSetting .a 5#8 9#8) (ready quiet))).bind fun t =>
      nextOf (exec (.configure .b 6#8 9#8 2#16) t)).isSome) = true :=
  ⟨admits (by decide +kernel), by decide, admits (by decide +kernel), admits (by decide +kernel),
    admits (by decide +kernel), by decide, admits (by decide +kernel), admits (by decide +kernel), by decide,
    admits (by decide +kernel), by decide +kernel⟩

/-- A read of sixteen bytes with a dummy phase, its lanes given. -/
def aReadOnBus (lanes : Lanes) (addrBytes : Nat) : Transaction :=
  { readData .readData Profile.default 0x123456#32 16 with lanes := lanes, addrBytes := addrBytes }

theorem test_hyp_FlashBusPinsFollowTheTransaction :
    quiet.bus.cur = none ∧ quiet.releaseBus.bus.gap ≠ 0 ∧
    (∃ t, State.reset.bus.cur = some t ∧ State.reset.bus.gap = 0 ∧ t.elapsed < t.txn.cycles * t.divider) ∧
    ([⟨.one, .one, .one⟩, ⟨.one, .one, .two⟩, ⟨.one, .four, .four⟩] : List Lanes).all (fun l =>
      let t := aReadOnBus l 3
      let a := 3 * (8 / l.addr.toNat)
      t.inCount != 0 && t.phaseAt 0 == some (.command, 0) && t.phaseAt 8 == some (.address, 0) &&
      t.phaseAt (8 + a) == some (.dummy, 0) && t.phaseAt (8 + a + 8) == some (.data, 0) &&
      t.phaseAt t.cycles == none) = true ∧
    (aReadOnBus .single 4).phaseAt 39 = some (.address, 31) ∧
    (pageProgram Profile.default 0#32 [1#8]).phaseAt 32 = some (.data, 0) ∧
    (pageProgram Profile.default 0#32 [1#8]).inCount = 0 ∧ [1#8, 2#8][1]? = some 2#8 ∧
    (∀ w, ({ Transaction.idRead 0x9F#8 with lanes := ⟨.one, .one, w⟩ } : Transaction).inCount = [1#8, 0x80#8, 0xFF#8].length) ∧
    (let t : OnBus := { dev := .d0, txn := .idRead 0x9F#8, divider := 4, elapsed := 34, live := true }
     t.elapsed < t.txn.cycles * t.divider ∧ t.elapsed % t.divider = t.divider - t.divider / 2 ∧
     t.txn.phaseAt (t.elapsed / t.divider) = some (.data, 0) ∧ t.txn.inCount ≠ 0) := by
  refine ⟨rfl, by decide, ⟨_, rfl, rfl, ?_⟩, by decide, by decide, by decide, by decide, by decide, fun _ => rfl, by decide⟩
  decide

/-- The bytes A1h and 0Fh, shifted in on one, two and four lanes. -/
theorem test_bytes_shifted_in :
    ([.one, .two, .four] : List LaneCount).all (fun w =>
      let t := { aReadOnBus ⟨.one, .one, w⟩ 3 with inCount := 2 }
      t.received (deviceLevels w [0xA1#8, 0x0F#8]) == [0xA1#8, 0x0F#8]) = true ∧
    deviceLevels .two [0xA1#8] 0 = ⟨false, true, false, false⟩ ∧
    deviceLevels .four [0xA1#8] 0 = ⟨false, true, false, true⟩ := by decide

theorem test_hyp_CancelActsOnItsTarget :
    (let s := ready (busy releasingRegion)
     s.Admits .a 5#8 (.cancel 1#8) 3 ∧ (s.exch .a).WellFormed ∧ (s.exch .a).tagHeld 4#8 = false ∧
     (s.entry .a 0).tag = some 1#8 ∧ (s.entry .a 0).state = .queued ∧ (s.entry .a 0).region = some 0 ∧
     (s.entry .a 1).state = .active ∧ (s.entry .a 1).isErase = true ∧ (s.entry .a 1).stop = .none ∧
     (s.entry .a 2).state = .waiting ∧ (s.entry .a 2).isClaim = false) ∧
    (let s := ready (({ quiet with exchs := ⟨one claimOfB, .initial, .initial⟩ } : State).setRegion 0
       { leasedRegion with holder := some .c, queue := [⟨.a, 0, 0, 0⟩] })
     s.Admits .a 5#8 (.cancel 9#8) 1 ∧ (s.entry .a 0).tag = some 9#8 ∧ (s.entry .a 0).isClaim = true ∧
     (s.region 0).queue.find? (fun x => x.port == .a) = some ⟨.a, 0, 0, 0⟩) :=
  ⟨⟨admits (by decide +kernel), wellFormed_of_formed (by decide +kernel), by decide +kernel, by decide +kernel,
    by decide +kernel, by decide +kernel, by decide +kernel, by decide +kernel, by decide +kernel, by decide +kernel,
    by decide +kernel⟩, admits (by decide +kernel), by decide +kernel, by decide +kernel, by decide +kernel⟩

/-- Region 0 leased by Port A, with the whole device. -/
def leased : State :=
  ready (quiet.setRegion 0 { Region.preset .d0 [0x44#8] (some .a) with state := .leased, holder := some .a,
                                                                       granted := some 9, remaining := 9 })

theorem test_hyp_FlashRequestsAreQueued :
    leased.Admits .a 5#8 (.read 0#8 0xFFFF00#32 256#16 noEpoch) 0 ∧ (leased.region 0).device = some .d0 ∧
    (leased.seq .d0).state = .idle ∧ (State.reset.seq .d0).state ≠ .idle ∧
    (leased.region 0).readRights.has .a = true ∧
    (0xFFFF00#32 : Word).toNat + 256 ≤ (leased.region 0).sectorCount * 4096 ∧
    leased.Admits .a 5#8 (.program 0#8 0xFFFFFF#32 1#8 ⟨1#8, 0#16⟩ [1#8]) 0 ∧
    (0xFFFFFF#32 : Word).toNat % 256 + 1 ≤ 256 ∧ (0#16 : Half) = leased.epoch ∧
    leased.Admits .a 5#8 (.erase 0#8 4095#16 1#32 noEpoch) 0 ∧ 4095 + 1 ≤ (leased.region 0).sectorCount ∧
    (leased.region 0).state = .leased ∧ (leased.region 0).holder = some .a :=
  ⟨admits (by decide +kernel), by decide +kernel, by decide +kernel, by decide +kernel, by decide +kernel,
    by decide +kernel, admits (by decide +kernel), by decide, by decide, admits (by decide +kernel), by decide +kernel,
    by decide +kernel, by decide +kernel⟩

theorem test_hyp_FlashRequestsAreRefusedInOrder :
    requestOf (.read .a 5#8 0#8 0#32 0#16 noEpoch) = some (.a, 5#8, .read 0#8 0#32 0#16 noEpoch) ∧
    leased.Admits .a 5#8 (.read 0#8 0#32 0#16 noEpoch) 0 ∧ (leased.region 0).state ≠ .free ∧
    leased.Admits .a 5#8 (.program 0#8 0#32 2#8 noEpoch []) 0 ∧ leased.Admits .a 5#8 (.erase 0#8 0#16 0#32 ⟨2#8, 0#16⟩) 0 :=
  ⟨rfl, admits (by decide +kernel), by decide +kernel, admits (by decide +kernel), admits (by decide +kernel)⟩

theorem test_hyp_IdleDeviceStartsTheRequest :
    [aRead, aProgram, anErase].all (fun q =>
      let s := ({ quiet with exchs := ⟨one (entryOf .waiting 5#8 q (some .d0) (some 0)), .initial, .initial⟩ } : State)
      (s.seq .d0).state == .idle && (s.exch .a).order.contains 0 && (s.entry .a 0).device == some .d0 &&
      allPorts.all (fun p => allSlots.all fun k => !(s.entry p k).state.inLine) &&
      (s.entry .a 0).request == some q && (s.entry .a 0).region == some 0 && (s.entry .a 0).stop == .none) = true := by
  decide +kernel

theorem test_hyp_BusIsGrantedInTurn :
    quiet.bus.cur = none ∧ (quiet.seq .d1).busRequest = none ∧ State.reset.bus.cur ≠ none ∧
    (State.reset.seq .d1).busRequest = some (.idRead 0x9F#8) ∧
    (let s := State.reset.releaseBus
     s.bus.cur = none ∧ (s.seq .d1).busRequest = some (.idRead 0x9F#8) ∧ s.bus.pointer = .d1) ∧
    endOf (.idReadEnd .d0 1#8 2#8 3#8) = some (.d0, .idRead, 3) ∧
    (∃ t, (State.reset.abandonBus .d0).bus.cur = some t ∧ t.dev = .d0 ∧ t.txn.use = .idRead ∧ t.txn.inCount = 3 ∧
      t.live = false) := by
  refine ⟨rfl, rfl, by decide +kernel, by decide +kernel, by decide +kernel, rfl, ⟨_, rfl, ?_⟩⟩
  decide +kernel

theorem test_hyp_SelectionIsCyclic :
    ([.a, .b, .c] : List Port) = (match (quiet.seq .d0).lastServed with
      | .a => [.b, .c, .a] | .b => [.c, .a, .b] | .c => [.a, .b, .c]) ∧
    [aRead, aProgram, anErase].all (fun q =>
      let s := ({ quiet with exchs := ⟨.initial, one (entryOf .queued 5#8 q (some .d0) (some 0)), .initial⟩ } : State)
      s.head .d0 .a == none && s.head .d0 .b == some 0 &&
      s.pick .d0 (fun p k => (s.entry p k).startable) == some ⟨.b, 0⟩ && (s.entry .b 0).stop == .none) = true ∧
    quiet.pick .d0 (fun p k => (quiet.entry p k).startable) = none ∧
    ([(.active, .cancel), (.active, .leaseLost), (.active, .retired), (.draining, .portReset)] :
        List (EntryState × StopRequest)).all (fun x =>
      let s := ({ quiet with exchs := ⟨one { entryOf x.1 5#8 anErase (some .d0) (some 0) with stop := x.2 }, .initial,
                                       .initial⟩ } : State)
      s.pick .d0 (fun p k => (s.entry p k).startable) == some ⟨.a, 0⟩ && (s.entry .a 0).isErase &&
      (s.entry .a 0).stop == x.2 && (s.entry .a 0).state == x.1) = true := by decide +kernel

/-! ### Transactions under way -/

/-- The transaction on the bus is the device's, for this use. -/
def endsNow (s : State) (use : BusUse) (n : Nat) : Bool :=
  s.resetn && (s.bus.cur.any fun t => t.dev == .d0 && t.txn.use == use && t.txn.inCount == n && t.live)

theorem ends {s : State} {use : BusUse} {n : Nat} (h : endsNow s use n = true) : s.Ends .d0 use n := by
  simp only [endsNow, Bool.and_eq_true] at h
  refine ⟨h.1, ?_⟩
  cases ht : s.bus.cur with
  | none => simp [ht] at h
  | some t =>
    have := h.2
    simp only [ht, Option.any_some, Bool.and_eq_true, beq_iff_eq] at this
    exact ⟨t, rfl, this.1.1.1, this.1.1.2, this.1.2, this.2⟩

/-- Entry 0 of Port A is the current operation of device 0. -/
def runsNow (s : State) : Bool := (s.seq .d0).current == some ⟨.a, 0⟩ && (s.entry .a 0).state.running

theorem runs {s : State} (h : runsNow s = true) : s.Runs .d0 ⟨.a, 0⟩ := by
  simp only [runsNow, Bool.and_eq_true, beq_iff_eq] at h
  exact ⟨h.1, h.2⟩

theorem test_hyp_FinalTransactionsEndTheOperation :
    (running aRead .transfer .readData 16).Ends .d0 .readData 16 ∧ (running aRead .transfer .readData 16).Runs .d0 ⟨.a, 0⟩ ∧
    ((running aRead .transfer .readData 16).entry .a 0).region = some 0 ∧
    ((running aRead .transfer .readData 16).seq .d0).suspendedStep = none ∧
    (running aProgram .transfer .clearStatus 0).Ends .d0 .clearStatus 0 ∧
    (running aProgram .transfer .verifyRead 2).Ends .d0 .verifyRead 2 ∧
    (running aProgram .transfer .verifyRead 2).Runs .d0 ⟨.a, 0⟩ ∧
    ((running aProgram .transfer .verifyRead 2).entry .a 0).payload = [0xAA#8, 0xBB#8] ∧
    [0xAA#8, 0xBC#8][1]? ≠ [0xAA#8, 0xBB#8][1]? ∧
    (∀ j, j < 1 → [0xAA#8, 0xBC#8][j]? = [0xAA#8, 0xBB#8][j]?) :=
  ⟨ends (by decide +kernel), runs (by decide +kernel), by decide +kernel, by decide +kernel, ends (by decide +kernel),
    ends (by decide +kernel), runs (by decide +kernel), by decide +kernel, by decide, by decide⟩

/-- A READ of Port B served while the range of Port A is suspended. -/
def suspended : State :=
  let s := running anErase .suspended .readData 16
  { s with exchs := ⟨s.exchs.a, one (entryOf .active 7#8 aRead (some .d0) (some 0)), .initial⟩
           seqs := ⟨{ s.seqs.d0 with current := some ⟨.b, 0⟩, suspendedStep := some ⟨.a, 0⟩, readQuota := some 1,
                                     readsServed := 1 }, s.seqs.d1⟩
           profiles := ⟨fullProfile, .default⟩ }

theorem test_hyp_SuspensionServesReadsThenResumes :
    (suspended.profile .d0).suspendSet = some ⟨0x75#8, 0x7A#8, 7⟩ ∧
    (suspended.seq .d0).readQuota = some (suspended.seq .d0).readsServed ∧
    suspended.Ends .d0 .readData 16 ∧ suspended.Runs .d0 ⟨.b, 0⟩ ∧ (suspended.seq .d0).suspendedStep = some ⟨.a, 0⟩ ∧
    (let s := { suspended with
       exchs := ⟨suspended.exchs.a, one (entryOf .queued 7#8 (.read 0#8 0x1000#32 16#16 noEpoch) (some .d0) (some 0)),
                 .initial⟩
       seqs := ⟨{ suspended.seqs.d0 with readsServed := 0 }, suspended.seqs.d1⟩ }
     (s.seq .d0).readQuota ≠ some (s.seq .d0).readsServed ∧ s.pick .d0 (s.eligible ⟨.a, 0⟩) = some ⟨.b, 0⟩) :=
  ⟨by decide, by decide, ends (by decide +kernel), ⟨by decide +kernel, by decide +kernel⟩, by decide, by decide +kernel⟩

theorem test_hyp_OperationsAndStepsEnd :
    ((running anErase .waitReady .pollStatus 1).entry .a 0).state = .active ∧
    ((running anErase .waitReady .pollStatus 1).entry .a 0).region = some 0 ∧
    (entryOf .draining 2#8 anErase (some .d0) (some 0)).state = .draining ∧
    ((running anErase .waitReady .pollStatus 1).entry .a 0).request = some anErase ∧
    ((running anErase .waitReady .pollStatus 1).entry .a 0).progress + 1 < (4#32 : Word).toNat ∧
    (1#32 : Word).toNat ≤ ((running anErase .waitReady .pollStatus 1).entry .a 0).progress + 1 ∧
    ((running anErase .waitReady .pollStatus 1).entry .a 0).stop = .none ∧
    (4 : RegionId) < 9 ∧ (twoEnds.entry .a 0).region = some 9 ∧ (twoEnds.entry .b 0).region = some 4 ∧
    (twoEnds.entry .a 0).state.running = true ∧ (twoEnds.entry .b 0).state.running = true := by decide +kernel

theorem test_hyp_LatchCheckPrecedesTheIssue :
    (running aProgram .transfer .writeEnable 0).Runs .d0 ⟨.a, 0⟩ ∧
    (running aProgram .transfer .writeEnable 0).Ends .d0 .writeEnable 0 ∧
    (running anErase .transfer .latchStatus 1).Ends .d0 .latchStatus 1 ∧
    ((running anErase .transfer .latchStatus 1).profile .d0).latchBit = some 1 ∧
    (2#8 : Byte).getLsbD 1 = true ∧ (0#8 : Byte).getLsbD 1 = false ∧
    ((running anErase .transfer .latchStatus 1).seq .d0).writeEnables < 2 ∧
    ((running aProgram .transfer .writeEnable 0).entry .a 0).request = some aProgram ∧
    ((running anErase .transfer .latchStatus 1).entry .a 0).request = some anErase :=
  ⟨runs (by decide +kernel), ends (by decide +kernel), ends (by decide +kernel), by decide, by decide, by decide,
    by decide, by decide +kernel, by decide +kernel⟩

theorem test_hyp_TimersOfAStepAreSetAndRemoved :
    (running aProgram .transfer .pageProgram 0).Ends .d0 .pageProgram 0 ∧
    (running anErase .transfer .sectorErase 0).Ends .d0 .sectorErase 0 ∧
    (running anErase .suspending .suspend 0).Ends .d0 .suspend 0 ∧
    (running anErase .resuming .resume 0).Ends .d0 .resume 0 ∧
    (let s := quiet.setSeq .d0 { idleSeq with state := .waitReady, dwellTimer := some 0 }
     s.resetn = true ∧ (s.seq .d0).state = .waitReady ∧ (s.seq .d0).dwellTimer = some 0) :=
  ⟨ends (by decide +kernel), ends (by decide +kernel), ends (by decide +kernel), ends (by decide +kernel), by decide⟩

/-- A sector step at a poll turn, with a READ of Port B at the head of its line. -/
def polling : State :=
  let s := running anErase .waitReady .pollStatus 1
  { s with exchs := ⟨s.exchs.a, one (entryOf .queued 7#8 (.read 0#8 0x1000#32 16#16 noEpoch) (some .d0) (some 0)), .initial⟩
           profiles := ⟨fullProfile, .default⟩ }

theorem test_hyp_PollTurnSuspendsOrReadsStatus :
    polling.resetn = true ∧ (polling.seq .d0).state = .waitReady ∧ (polling.seq .d0).pollTimer = some 0 ∧
    polling.Runs .d0 ⟨.a, 0⟩ ∧ (polling.entry .a 0).isErase = true ∧
    (polling.profile .d0).suspendSet = some ⟨0x75#8, 0x7A#8, 7⟩ ∧ (polling.seq .d0).dwellTimer = none ∧
    (polling.seq .d0).suspendCount < (polling.seq .d0).stepSuspendLimit ∧ polling.head .d0 .b = some 0 ∧
    (polling.entry .b 0).state = .queued ∧
    polling.stepSector (polling.entry .a 0) < polling.firstByte (polling.entry .b 0) / 4096 ∧
    ((running aProgram .waitReady .pollStatus 1).entry .a 0).isErase = false ∧
    (running aProgram .waitReady .pollStatus 1).Runs .d0 ⟨.a, 0⟩ :=
  ⟨rfl, by decide, by decide, runs (by decide +kernel), by decide +kernel, by decide, by decide, by decide,
    by decide +kernel, by decide +kernel, by decide +kernel, by decide +kernel, runs (by decide +kernel)⟩

theorem test_hyp_FinalStatusEndsThePolling :
    polling.Ends .d0 .pollStatus 1 ∧ polling.Runs .d0 ⟨.a, 0⟩ ∧ (polling.profile .d0).busy 1#8 = true ∧
    (polling.profile .d0).busy 0x20#8 = false ∧ (polling.profile .d0).failBit = some 5 ∧
    (0x20#8 : Byte).getLsbD 5 = true ∧ (polling.profile .d0).clearOp = some 0x50#8 ∧
    ({ fullProfile with clearOp := none } : Profile).clearOp = none ∧ (0#8 : Byte).getLsbD 5 = false ∧
    ((running aProgram .waitReady .pollStatus 1).entry .a 0).verify = true ∧
    ((running (.program 0#8 0#32 0#8 noEpoch [1#8]) .waitReady .pollStatus 1).entry .a 0).verify = false ∧
    (polling.entry .a 0).isProgram = false :=
  ⟨ends (by decide +kernel), runs (by decide +kernel), by decide, by decide, by decide, by decide, by decide, by decide,
    by decide, by decide +kernel, by decide +kernel, by decide +kernel⟩

theorem test_hyp_TimerExpiryFaultsTheDevice :
    polling.resetn = true ∧ (∀ p, (polling.exch p).WellFormed) ∧ polling.WaitsReferred ∧ (polling.seq .d0).state = .waitReady ∧
    (polling.seq .d0).stepTimer = some 0 ∧ (polling.entry .b 0).device = some .d0 ∧
    (polling.entry .b 0).state = .queued ∧ (polling.entry .a 0).state = .active ∧
    ((running anErase .resuming .resumingStatus 1).seq .d0).suspendTimer = some 0 :=
  ⟨rfl, exchanges_formed (by decide +kernel), waitsReferred_of_referred (by decide +kernel), by decide, by decide,
    by decide +kernel, by decide +kernel, by decide +kernel, by decide⟩

theorem test_hyp_StatusInASuspensionDecides :
    (running anErase .suspending .suspendingStatus 1).Ends .d0 .suspendingStatus 1 ∧
    (running anErase .suspending .suspendingStatus 1).Runs .d0 ⟨.a, 0⟩ ∧
    (running anErase .resuming .resumingStatus 1).Ends .d0 .resumingStatus 1 ∧
    (running anErase .resuming .resumingStatus 1).Runs .d0 ⟨.a, 0⟩ ∧ fullProfile.busy 1#8 = true ∧
    fullProfile.busy 0x80#8 = false ∧ fullProfile.isSuspended 0x80#8 = true ∧ fullProfile.isSuspended 1#8 = false :=
  ⟨ends (by decide +kernel), runs (by decide +kernel), ends (by decide +kernel), runs (by decide +kernel), by decide,
    by decide, by decide, by decide⟩

/-- A recovery of device 0 in a phase, with a RECOVER of Port A WAITING. -/
def recovering (phase : RecoveryPhase) (use : BusUse) (n : Nat) : State :=
  { quiet with
    exchs := ⟨one (entryOf .waiting 2#8 (.recover 0#8) (some .d0) none), .initial, .initial⟩
    seqs := ⟨{ idleSeq with state := .recovering, recoveryPhase := some phase, recoveryTimer := some 0, pollTimer := some 0,
                            waitingRequest := some ⟨.a, 0⟩ }, idleSeq⟩
    bus := { cur := some { dev := .d0, txn := { opcodeOnly use 0#8 with inCount := n }, divider := 4, elapsed := 0,
                           live := true }, pointer := .d1, gap := 0 } }

theorem test_hyp_RecoveryRunsToItsEnd :
    (recovering .reset .reset 0).Ends .d0 .reset 0 ∧
    ((recovering .reset .reset 0).profile .d0).resetOps[((recovering .reset .reset 0).seq .d0).resetsSent + 1]? =
      some 0x99#8 ∧
    (recovering .poll .recoveryStatus 1).Ends .d0 .recoveryStatus 1 ∧ Profile.default.busy 1#8 = true ∧
    Profile.default.busy 0#8 = false ∧
    [RecoveryPhase.delay, .poll].all (fun x =>
      let s := recovering x .recoveryStatus 1
      s.resetn && (s.seq .d0).state == .recovering && (s.seq .d0).recoveryPhase == some x &&
      (s.seq .d0).recoveryTimer == some 0 && (s.seq .d0).pollTimer == some 0) = true ∧
    (∀ p, ((recovering .poll .recoveryStatus 1).exch p).WellFormed) ∧
    (recovering .poll .recoveryStatus 1).WaitsReferred := by
  exact ⟨ends (by decide +kernel), by decide, ends (by decide +kernel), by decide, by decide, by decide,
    exchanges_formed (by decide +kernel), waitsReferred_of_referred (by decide +kernel)⟩

theorem test_hyp_ProbeDecidesIdleOrAbsent :
    State.reset.Ends .d0 .idRead 3 ∧ (⟨0#8, 0#8, 0#8⟩ : DeviceId).isNoResponse = true ∧
    fullProfile.probe ⟨1#8, 2#8, 3#8⟩ = none ∧ fullProfile.probe ⟨1#8, 2#8, 4#8⟩ = some .idMismatch ∧
    fullProfile.probe ⟨0xFF#8, 0xFF#8, 0xFF#8⟩ = some .noResponse :=
  ⟨ends (by decide +kernel), by decide, by decide, by decide, by decide⟩

theorem test_hyp_PostingsCoalesceByRegion :
    (∀ r ∈ quiet.noticeList .a, r.region ≠ 0) ∧
    ((quiet.setNotices .a [⟨1, .changed, 0#16⟩, ⟨0, .changed, 0#16⟩]).noticeList .a =
      [⟨1, .changed, 0#16⟩] ++ (⟨0, .changed, 0#16⟩ : Notice) :: []) ∧
    (∀ y ∈ ([⟨1, .changed, 0#16⟩] : List Notice), y.region ≠ 0) ∧ quiet.resetn = true ∧
    (quiet.link .a).mask.notices = false := by decide +kernel

theorem test_hyp_ProfileRecordsRoundTrip : fullProfile.valid = true ∧ Profile.default.valid = true := by decide

theorem test_hyp_AnsweredEntriesStandUntilTaken :
    (let s := ({ quiet with exchs := ⟨one (entryOf .answered 1#8 aRead none none), .initial, .initial⟩ } : State)
     (s.entry .a 0).state = .answered ∧ (nextOf (exec .msTick s)).isSome = true ∧ (s.exch .a).WellFormed) ∧
    Instr.msTick ≠ .takeDelivery .a ∧ Instr.msTick ≠ .linkResetConfirm .a 0x6D#8 :=
  ⟨⟨by decide +kernel, by decide +kernel, wellFormed_of_formed (by decide +kernel)⟩, by decide, by decide⟩

theorem test_hyp_Invariants :
    (∀ p, ((busy releasingRegion).exch p).WellFormed) ∧ (busy releasingRegion).WaitsReferred ∧
    (busy releasingRegion).settings.inRange ∧ (busy releasingRegion).profilesValid ∧
    (∀ p, noticesOnce ((busy releasingRegion).noticeList p)) ∧
    (∀ p, (busy releasingRegion).leaseCount p ≤ 4) ∧ (nextOf (step (busy releasingRegion))).isSome = true := by
  refine ⟨exchanges_formed (by decide +kernel), waitsReferred_of_referred (by decide +kernel), ?_,
    allDevs_hold (by decide) (by decide), allPorts_hold (List.nodup_nil) (List.nodup_nil) (List.nodup_nil),
    allPorts_hold (by decide +kernel) (by decide +kernel) (by decide +kernel), by decide +kernel⟩
  intro id v h
  fin_cases id <;> (cases h; decide)

/-- The test state with its region labelled apart from region 1. -/
theorem test_hyp_RegionInvariants :
    (∀ n, ((busy releasingRegion).region n).WellFormed) ∧ (busy releasingRegion).TableConsistent := by
  refine ⟨fun n => wellFormed_of_regionFormed ?_, ⟨by decide +kernel, fun n d => ?_, by decide +kernel⟩⟩
  · revert n; decide +kernel
  · revert n; cases d <;> decide +kernel

end Sys2Proof.Tests
end

section
/-! What the operations of the Region Table do to single records: entries, Notice Lists, region records, and what they
leave alone. Each operation has one lemma for each kind of record. -/

namespace Sys2Proof.Machine

/-! ### What the actions of the Region Table can reach -/

/-- The action reaches only the Exchanges, the Notice Lists and the region records. -/
def State.TableWork (s t : State) : Prop :=
  t = { s with exchs := t.exchs, notices := t.notices, regions := t.regions }

theorem State.TableWork.refl (s : State) : s.TableWork s := rfl

theorem State.TableWork.trans {s t u : State} (h : s.TableWork t) (g : t.TableWork u) : s.TableWork u := by
  unfold State.TableWork at h g ⊢
  rw [g, h]

theorem State.TableWork.settings {s t : State} (h : s.TableWork t) : t.settings = s.settings := by
  rw [show t = _ from h]

theorem State.TableWork.seqs {s t : State} (h : s.TableWork t) : t.seqs = s.seqs := by
  rw [show t = _ from h]

theorem State.TableWork.epoch {s t : State} (h : s.TableWork t) : t.epoch = s.epoch := by
  rw [show t = _ from h]

theorem State.setNotices_work (s : State) (p : Port) (l : List Notice) : s.TableWork (s.setNotices p l) := rfl
theorem State.setRegion_work (s : State) (n : RegionId) (r : Region) : s.TableWork (s.setRegion n r) := rfl
theorem State.answer_work (s : State) (p : Port) (k : Slot) (r : Result) (v : Values) (b : Option (List Byte)) :
    s.TableWork (s.answer p k r v b) := rfl
theorem State.regroup_work {s t : State} (h : s.TableWork t) : s.TableWork (s.regroup t) := by
  unfold State.TableWork at h ⊢
  rw [h]
  rfl

theorem State.answerSlots_work (s : State) (p : Port) (l : List Slot) (r : Result) :
    s.TableWork (s.answerSlots p l r) :=
  foldl_keeps State.TableWork .refl .trans _ l (fun s k _ => s.answer_work p k r _ _) s

theorem State.requestStop_work (s : State) (p : Port) (k : Slot) (x : StopRequest) :
    s.TableWork (s.requestStop p k x) := by
  unfold State.requestStop
  dsimp only
  split
  · rfl
  · exact .refl s

theorem State.stopSlots_work (s : State) (p : Port) (l : List Slot) (x : StopRequest) :
    s.TableWork (s.stopSlots p l x) :=
  foldl_keeps State.TableWork .refl .trans _ l (fun s k _ => s.requestStop_work p k x) s

theorem State.postSet_work (s : State) (ports : PortSet) (x : Notice) : s.TableWork (s.postSet ports x) := by
  refine foldl_keeps State.TableWork .refl .trans _ _ (fun s p _ => ?_) s
  split <;> rfl

theorem State.postChanged_work (s : State) (n : RegionId) (ex : Port) : s.TableWork (s.postChanged n ex) := by
  unfold State.postChanged
  split
  · exact s.postSet_work _ _
  · exact .refl s

theorem State.answerWhere_work (s : State) (p : Port) (slot : Option Slot) (r : Result) (v : Values) :
    s.TableWork (s.answerWhere p slot r v) := by
  cases slot <;> rfl

theorem State.answerGranted_work (s : State) (head : Option ClaimRecord) (t : Nat) (g : Half) :
    s.TableWork (s.answerGranted head t g) := by
  cases head <;> rfl

theorem State.leaseEnd_work (s : State) (n : RegionId) (ex : Port) (rel : Option Slot) :
    s.TableWork (s.leaseEnd n ex rel) :=
  (((s.postChanged_work n ex).trans (State.answerWhere_work _ ex rel _ _)).trans
    (State.answerGranted_work _ _ _ _)).trans (State.setRegion_work _ n _)

theorem State.leaseLost_work (s : State) (n : RegionId) (p : Port) : s.TableWork (s.leaseLost n p) :=
  (((s.answerSlots_work p _ _).trans (State.answerWhere_work _ p _ _ _)).trans
    (State.stopSlots_work _ p _ _)).trans (State.setNotices_work _ p _)

theorem State.leaseLoss_work (s : State) (n : RegionId) (p : Port) (b : Bool) : s.TableWork (s.leaseLoss n p b) := by
  unfold State.leaseLoss
  have h : s.TableWork (if b then s else s.leaseLost n p) := by
    cases b
    · exact s.leaseLost_work n p
    · exact .refl s
  refine h.trans ?_
  generalize (if b then s else s.leaseLost n p) = t
  dsimp only
  split
  · exact t.setRegion_work n _
  · exact t.leaseEnd_work n p none

/-- The freeing of a region counts the Table Epoch up, and reaches nothing else outside the table's work (R23). -/
theorem State.freeRegion_work (s : State) (n : RegionId) :
    State.TableWork { s with epoch := s.epoch + 1#16 } (s.freeRegion n) := by
  unfold State.freeRegion
  split <;> rfl

theorem State.dropClaim_work (s : State) (n : RegionId) (p : Port) (r : Result) : s.TableWork (s.dropClaim n p r) := by
  unfold State.dropClaim
  split <;> rfl

/-! ### Entries -/

/-- An entry that is answered where it is open (R137, R144). -/
def Entry.answered (e : Entry) (result : Result) (values : Values) (payload : Option (List Byte)) : Entry :=
  if e.state.open then
    { e with state := .answered, result := some result,
             values := if e.isErase && result != .malformed then .progress e.progress else values,
             payload := payload.getD e.payload }
  else e

theorem Entry.answered_of_open {e : Entry} (h : e.state.open = true) (r : Result) (v : Values)
    (b : Option (List Byte)) : e.answered r v b =
      { e with state := .answered, result := some r,
               values := if e.isErase && r != .malformed then .progress e.progress else v,
               payload := b.getD e.payload } := if_pos h

theorem Entry.answered_of_not_open {e : Entry} (h : e.state.open = false) (r : Result) (v : Values)
    (b : Option (List Byte)) : e.answered r v b = e := if_neg (by simp [h])

/-- An answered entry stays as it is (R137). -/
@[simp] theorem Entry.answered_answered (e : Entry) (r r' : Result) (v v' : Values) (b b' : Option (List Byte)) :
    (e.answered r v b).answered r' v' b' = e.answered r v b := by
  cases h : e.state.open
  · rw [Entry.answered_of_not_open h, Entry.answered_of_not_open h]
  · rw [Entry.answered_of_open h, Entry.answered_of_not_open rfl]

@[simp] theorem Entry.answered_region (e : Entry) (r : Result) (v : Values) (b : Option (List Byte)) :
    (e.answered r v b).region = e.region := by
  unfold Entry.answered; split <;> rfl

@[simp] theorem Entry.answered_request (e : Entry) (r : Result) (v : Values) (b : Option (List Byte)) :
    (e.answered r v b).request = e.request := by
  unfold Entry.answered; split <;> rfl

/-- An ACTIVE entry takes a stop request unless it has one (R71). -/
def Entry.stopRequested (e : Entry) (stop : StopRequest) : Entry :=
  if e.state == .active && e.stop == .none then { e with stop := stop } else e

theorem Entry.stopRequested_of_active {e : Entry} (h : e.state = .active) (hs : e.stop = .none) (x : StopRequest) :
    e.stopRequested x = { e with stop := x } := by
  unfold Entry.stopRequested
  rw [if_pos (by simp [h, hs])]

@[simp] theorem Entry.stopRequested_stopRequested (e : Entry) (x : StopRequest) :
    (e.stopRequested x).stopRequested x = e.stopRequested x := by
  unfold Entry.stopRequested
  cases h : (e.state == .active && e.stop == .none)
  · simp [h]
  · simp only [if_true]
    split <;> rfl

@[simp] theorem Entry.stopRequested_state (e : Entry) (x : StopRequest) : (e.stopRequested x).state = e.state := by
  unfold Entry.stopRequested; split <;> rfl

@[simp] theorem Entry.stopRequested_region (e : Entry) (x : StopRequest) : (e.stopRequested x).region = e.region := by
  unfold Entry.stopRequested; split <;> rfl

@[simp] theorem Entry.stopRequested_request (e : Entry) (x : StopRequest) :
    (e.stopRequested x).request = e.request := by
  unfold Entry.stopRequested; split <;> rfl

theorem Exchange.entry_answer (x : Exchange) (k j : Slot) (r : Result) (v : Values) (b : Option (List Byte)) :
    (x.answer k r v b).entry j = if j = k then (x.entry k).answered r v b else x.entry j := by
  unfold Exchange.answer
  dsimp only
  cases h : (x.entry k).state.open
  · rw [Entry.answered_of_not_open h, if_neg Bool.false_ne_true]
    split
    · rename_i e; rw [e]
    · rfl
  · rw [Entry.answered_of_open h, if_pos rfl, Exchange.entry_answered]

@[simp] theorem Exchange.order_answer (x : Exchange) (k : Slot) (r : Result) (v : Values) (b : Option (List Byte)) :
    (x.answer k r v b).order = x.order := by
  unfold Exchange.answer
  dsimp only
  split <;> rfl

theorem State.entry_answer (s : State) (p q : Port) (k j : Slot) (r : Result) (v : Values) (b : Option (List Byte)) :
    (s.answer p k r v b).entry q j = if q = p ∧ j = k then (s.entry q j).answered r v b else s.entry q j := by
  unfold State.entry State.answer
  rw [State.exch_setExch]
  by_cases h : q = p
  · subst h
    simp only [if_true, true_and, Exchange.entry_answer]
    split
    · rename_i e; rw [e]
    · rfl
  · simp [h]

@[simp] theorem State.order_answer (s : State) (p q : Port) (k : Slot) (r : Result) (v : Values)
    (b : Option (List Byte)) : ((s.answer p k r v b).exch q).order = (s.exch q).order := by
  unfold State.answer
  rw [State.exch_setExch]
  split
  · rename_i e; rw [e]; exact Exchange.order_answer ..
  · rfl

theorem State.entry_requestStop (s : State) (p q : Port) (k j : Slot) (x : StopRequest) :
    (s.requestStop p k x).entry q j = if q = p ∧ j = k then (s.entry q j).stopRequested x else s.entry q j := by
  unfold State.requestStop Entry.stopRequested
  dsimp only
  by_cases h : q = p ∧ j = k
  · obtain ⟨rfl, rfl⟩ := h
    simp only [and_self, if_true]
    split
    · exact State.entry_setEntry_same ..
    · rfl
  · rw [if_neg h]
    split
    · rw [State.entry_setEntry, if_neg h]
    · rfl

/-- Several entries of a port are answered with one result: each of them as if it were alone. -/
theorem State.entry_answerSlots (s : State) (p q : Port) (l : List Slot) (j : Slot) (r : Result) :
    (s.answerSlots p l r).entry q j =
      if q = p ∧ j ∈ l then (s.entry q j).answered r .none none else s.entry q j := by
  unfold State.answerSlots
  induction l generalizing s with
  | nil => simp
  | cons k l ih =>
    rw [List.foldl_cons, ih, State.entry_answer]
    by_cases hq : q = p <;> by_cases hk : j = k <;> by_cases hl : j ∈ l <;> simp [hq, hk, hl]

@[simp] theorem State.order_answerSlots (s : State) (p q : Port) (l : List Slot) (r : Result) :
    ((s.answerSlots p l r).exch q).order = (s.exch q).order :=
  foldl_keeps (fun a b : State => (b.exch q).order = (a.exch q).order) (fun _ => rfl) (fun h g => g.trans h)
    (fun s k => s.answer p k r) l (fun s k _ => s.order_answer p q k r _ _) s

/-- Several entries of a port get one stop request: each of them as if it were alone. -/
theorem State.entry_stopSlots (s : State) (p q : Port) (l : List Slot) (j : Slot) (x : StopRequest) :
    (s.stopSlots p l x).entry q j = if q = p ∧ j ∈ l then (s.entry q j).stopRequested x else s.entry q j := by
  unfold State.stopSlots
  induction l generalizing s with
  | nil => simp
  | cons k l ih =>
    rw [List.foldl_cons, ih, State.entry_requestStop]
    by_cases hq : q = p <;> by_cases hk : j = k <;> by_cases hl : j ∈ l <;> simp [hq, hk, hl]

@[simp] theorem State.order_requestStop (s : State) (p q : Port) (k : Slot) (x : StopRequest) :
    ((s.requestStop p k x).exch q).order = (s.exch q).order := by
  unfold State.requestStop State.setEntry
  dsimp only
  split
  · rw [State.exch_setExch]
    split
    · rename_i e; rw [e]; rfl
    · rfl
  · rfl

@[simp] theorem State.order_stopSlots (s : State) (p q : Port) (l : List Slot) (x : StopRequest) :
    ((s.stopSlots p l x).exch q).order = (s.exch q).order :=
  foldl_keeps (fun a b : State => (b.exch q).order = (a.exch q).order) (fun _ => rfl) (fun h g => g.trans h) _ l
    (fun s k _ => s.order_requestStop p q k x) s

theorem State.mem_slotsWhere {s : State} {p : Port} {test : Entry → Bool} {k : Slot} :
    k ∈ s.slotsWhere p test ↔ k ∈ (s.exch p).order ∧ test (s.entry p k) = true := List.mem_filter

theorem State.entry_answerWhere (s : State) (p q : Port) (slot : Option Slot) (j : Slot) (r : Result) (v : Values) :
    (s.answerWhere p slot r v).entry q j =
      if q = p ∧ slot = some j then (s.entry q j).answered r v none else s.entry q j := by
  cases slot with
  | none => simp [State.answerWhere]
  | some k => simp only [State.answerWhere, State.entry_answer, Option.some.injEq, eq_comm]

/-- Putting the answers of an action in order leaves the entries as they are (R144). -/
@[simp] theorem State.entry_regroup (s t : State) (p : Port) (k : Slot) : (s.regroup t).entry p k = t.entry p k := by
  cases p <;> rfl

@[simp] theorem State.order_regroup (s t : State) (p : Port) : ((s.regroup t).exch p).order = (t.exch p).order := by
  cases p <;> rfl

@[simp] theorem State.entry_post (s : State) (p q : Port) (k : Slot) (x : Notice) :
    (s.post p x).entry q k = s.entry q k := rfl

@[simp] theorem State.exch_post (s : State) (p q : Port) (x : Notice) : (s.post p x).exch q = s.exch q := rfl

@[simp] theorem State.exchs_postSet (s : State) (ports : PortSet) (x : Notice) :
    (s.postSet ports x).exchs = s.exchs := by
  refine foldl_keeps (fun a b : State => b.exchs = a.exchs) (fun _ => rfl) (fun h g => g.trans h) _ _
    (fun s p _ => ?_) s
  split <;> rfl

@[simp] theorem State.exchs_postChanged (s : State) (n : RegionId) (ex : Port) :
    (s.postChanged n ex).exchs = s.exchs := by
  unfold State.postChanged
  split
  · exact s.exchs_postSet _ _
  · rfl

/-- Entries are read from the Exchanges alone. -/
theorem State.entry_of_exchs {s t : State} (h : t.exchs = s.exchs) (p : Port) (k : Slot) :
    t.entry p k = s.entry p k := by
  unfold State.entry State.exch; rw [h]

/-- Region records are read from the table alone. -/
theorem State.region_of_regions {s t : State} (h : t.regions = s.regions) (n : RegionId) :
    t.region n = s.region n := by
  unfold State.region; rw [h]

/-- The end of a lease answers the RELEASE that ended it and the claim that is granted, and nothing else (R37, R38). -/
theorem State.entry_leaseEnd_of_other {s : State} {n : RegionId} {ex q : Port} {rel : Option Slot} {j : Slot}
    (hrel : ¬ (q = ex ∧ rel = some j)) (hq : ∀ c ∈ (s.region n).queue, ¬ (q = c.port ∧ j = c.slot)) :
    (s.leaseEnd n ex rel).entry q j = s.entry q j := by
  unfold State.leaseEnd
  rw [State.entry_setRegion]
  have base : ((s.postChanged n ex).answerWhere ex rel .done (.generation (s.region n).nextGeneration)).entry q j =
      s.entry q j := by
    rw [State.entry_answerWhere, if_neg hrel]
    exact State.entry_of_exchs (State.exchs_postChanged ..) q j
  cases h : (s.region n).queue with
  | nil => exact base
  | cons c rest =>
    simp only [List.head?_cons, State.answerGranted]
    rw [State.entry_answer, if_neg (hq c (by rw [h]; exact List.mem_cons_self ..))]
    exact base

/-! ### Notice Lists -/

@[simp] theorem State.notices_answer (s : State) (p : Port) (k : Slot) (r : Result) (v : Values)
    (b : Option (List Byte)) : (s.answer p k r v b).notices = s.notices := rfl

@[simp] theorem State.noticeList_answer (s : State) (p q : Port) (k : Slot) (r : Result) (v : Values)
    (b : Option (List Byte)) : (s.answer p k r v b).noticeList q = s.noticeList q := rfl

@[simp] theorem State.notices_answerSlots (s : State) (p : Port) (l : List Slot) (r : Result) :
    (s.answerSlots p l r).notices = s.notices :=
  foldl_keeps (fun a b : State => b.notices = a.notices) (fun _ => rfl) (fun h g => g.trans h)
    (fun s k => s.answer p k r) l (fun s k _ => s.notices_answer p k r _ _) s

@[simp] theorem State.notices_stopSlots (s : State) (p : Port) (l : List Slot) (x : StopRequest) :
    (s.stopSlots p l x).notices = s.notices := by
  refine foldl_keeps (fun a b : State => b.notices = a.notices) (fun _ => rfl) (fun h g => g.trans h) _ l
    (fun s k _ => ?_) s
  unfold State.requestStop
  dsimp only
  split <;> rfl

@[simp] theorem State.notices_answerWhere (s : State) (p : Port) (slot : Option Slot) (r : Result) (v : Values) :
    (s.answerWhere p slot r v).notices = s.notices := by
  cases slot <;> rfl

@[simp] theorem State.notices_answerGranted (s : State) (head : Option ClaimRecord) (t : Nat) (g : Half) :
    (s.answerGranted head t g).notices = s.notices := by
  cases head <;> rfl

/-- Notice Lists are read from the Notice Units alone. -/
theorem State.noticeList_of_notices {s t : State} (h : t.notices = s.notices) (p : Port) :
    t.noticeList p = s.noticeList p := by
  unfold State.noticeList; rw [h]

theorem State.noticeList_post (s : State) (p q : Port) (x : Notice) :
    (s.post p x).noticeList q = if q = p then postTo x (s.noticeList q) else s.noticeList q := by
  unfold State.post
  rw [State.noticeList_setNotices]
  split
  · rename_i e; rw [e]
  · rfl

/-- A posting to a set reaches each of its members once (R175). -/
theorem State.noticeList_postSet (s : State) (ports : PortSet) (x : Notice) (q : Port) :
    (s.postSet ports x).noticeList q =
      if ports.has q = true then postTo x (s.noticeList q) else s.noticeList q := by
  have one : ∀ (s : State) (p : Port), (if ports.has p = true then s.post p x else s).noticeList q =
      if q = p ∧ ports.has q = true then postTo x (s.noticeList q) else s.noticeList q := by
    intro s p
    by_cases hp : q = p
    · subst hp
      split
      · simp [State.noticeList_post, *]
      · simp [*]
    · simp only [hp, false_and, if_false]
      split
      · rw [State.noticeList_post, if_neg hp]
      · rfl
  simp only [State.postSet, allPorts, List.foldl_cons, List.foldl_nil, one]
  cases q <;> simp

/-- The end of a lease posts nothing to the ex-holder (R37). -/
theorem State.noticeList_leaseEnd_ex (s : State) (n : RegionId) (ex : Port) (rel : Option Slot) :
    (s.leaseEnd n ex rel).noticeList ex = s.noticeList ex := by
  unfold State.leaseEnd
  rw [State.noticeList_setRegion]
  have h : (((s.postChanged n ex).answerWhere ex rel .done (.generation (s.region n).nextGeneration)).answerGranted
      (s.region n).queue.head? ((s.region n).leaseOver s.settings).remaining (s.region n).nextGeneration).notices =
      (s.postChanged n ex).notices := by simp
  rw [State.noticeList_of_notices h]
  unfold State.postChanged
  split
  · rw [State.noticeList_postSet]
    have : ((s.region n).watch.erase ex).has ex = false := by cases ex <;> rfl
    simp [this]
  · rfl

/-! ### Region records and the Table Epoch -/

@[simp] theorem State.region_answer (s : State) (p : Port) (k : Slot) (r : Result) (v : Values)
    (b : Option (List Byte)) (n : RegionId) : (s.answer p k r v b).region n = s.region n := rfl

@[simp] theorem State.region_regroup (s t : State) (n : RegionId) : (s.regroup t).region n = t.region n := rfl

@[simp] theorem State.epoch_answer (s : State) (p : Port) (k : Slot) (r : Result) (v : Values)
    (b : Option (List Byte)) : (s.answer p k r v b).epoch = s.epoch := rfl

@[simp] theorem State.region_leaseLost (s : State) (n m : RegionId) (p : Port) :
    (s.leaseLost n p).region m = s.region m :=
  State.region_of_regions (by unfold State.leaseLost; simp) m

/-- What a lease loss leaves in the region records (R42). -/
theorem State.region_leaseLoss (s : State) (n m : RegionId) (p : Port) (byReset : Bool) :
    (s.leaseLoss n p byReset).region m =
      if m = n then
        if (if byReset then s else s.leaseLost n p).writeInProgress p n then
          { (s.region n).leaseEnded with state := .closing }
        else (s.region n).leaseOver s.settings
      else s.region m := by
  unfold State.leaseLoss
  have hr : ∀ i, (if byReset then s else s.leaseLost n p).region i = s.region i := by
    intro i; cases byReset
    · exact s.region_leaseLost n i p
    · rfl
  have hs : (if byReset then s else s.leaseLost n p).settings = s.settings := by
    cases byReset
    · exact (s.leaseLost_work n p).settings
    · rfl
  generalize (if byReset then s else s.leaseLost n p) = t at hr hs ⊢
  dsimp only
  split
  · rw [State.region_setRegion, hr n, hr m]
  · rw [State.region_leaseEnd, hr n, hr m, hs]

/-- What the freeing of a region leaves in the region records (R23). -/
theorem State.region_freeRegion (s : State) (n m : RegionId) :
    (s.freeRegion n).region m = if m = n then Region.free else s.region m := by
  unfold State.freeRegion
  split <;> exact s.region_setRegion n m _

@[simp] theorem State.epoch_freeRegion (s : State) (n : RegionId) : (s.freeRegion n).epoch = s.epoch + 1#16 := by
  unfold State.freeRegion
  split <;> rfl

/-- The freeing of a region answers the RETIRE that waits for it, and nothing else (R22, R23). -/
theorem State.entry_freeRegion (s : State) (n : RegionId) (q : Port) (j : Slot) :
    (s.freeRegion n).entry q j = if (s.region n).pendingRetire = some ⟨q, j⟩
      then (s.entry q j).answered .done (.epoch (s.epoch + 1#16)) none else s.entry q j := by
  unfold State.freeRegion
  split
  · rename_i h; simp [h]; rfl
  · rename_i e h
    rw [State.entry_answer, h]
    obtain ⟨p, k⟩ := e
    simp only [Option.some.injEq, EntryRef.mk.injEq, eq_comm]
    rfl

@[simp] theorem State.noticeList_freeRegion (s : State) (n : RegionId) (q : Port) :
    (s.freeRegion n).noticeList q = s.noticeList q := by
  unfold State.freeRegion
  split <;> rfl

/-! ### Operations in progress -/

/-- Operations in progress are read from the states and regions of the entries (R7). -/
theorem State.inProgress_congr {s t : State} {n : RegionId}
    (h : ∀ p k, (t.entry p k).state.running = (s.entry p k).state.running ∧
      (t.entry p k).region = (s.entry p k).region) : t.inProgress n = s.inProgress n := by
  unfold State.inProgress
  simp only [fun p k => (h p k).1, fun p k => (h p k).2]

theorem Entry.isWrite_of_request {e f : Entry} (h : f.request = e.request) : f.isWrite = e.isWrite := by
  unfold Entry.isWrite Entry.isProgram Entry.isErase; rw [h]

/-- Write operations in progress are read from the states and the requests of the port's entries (R42 item 5). -/
theorem State.writeInProgress_congr {s t : State} {p : Port} {n : RegionId}
    (h : ∀ k, (t.entry p k).state.running = (s.entry p k).state.running ∧
      (t.entry p k).region = (s.entry p k).region ∧ (t.entry p k).request = (s.entry p k).request) :
    t.writeInProgress p n = s.writeInProgress p n := by
  unfold State.writeInProgress
  simp only [fun k => (h k).1, fun k => (h k).2.1, fun k => Entry.isWrite_of_request (h k).2.2]

/-- An answer ends no operation in progress but an ACTIVE one. -/
theorem Entry.answered_running {e : Entry} (h : e.state ≠ .active) (r : Result) (v : Values)
    (b : Option (List Byte)) : (e.answered r v b).state.running = e.state.running := by
  cases ho : e.state.open
  · rw [Entry.answered_of_not_open ho]
  · rw [Entry.answered_of_open ho]
    cases hs : e.state <;> simp_all [EntryState.running, EntryState.open]

end Sys2Proof.Machine
end

section
/-! What a request comes to: the action of its kind, and the state in which its entry has been taken (R138, R139,
R142). -/

namespace Sys2Proof

open Sys2Proof.Machine

/-- The checks and the action of a request's kind on its entry in slot k (R142). -/
def Request.act (p : Port) : Request → Slot → State → State
  | .claim r t w, k, s => s.checked p k (s.claimCheck p r) fun n => s.claimAccepted p k n t w
  | .renew r t, k, s => s.checked p k (s.heldLease p r) fun n => s.renewed p k n t
  | .release r, k, s => s.checked p k (s.heldLease p r) fun n => s.released p k n
  | .watch r, k, s => s.checked p k (s.watchCheck p r) fun n => s.watched p k n
  | .unwatch r, k, s => s.checked p k (s.existing r) fun n => s.unwatched p k n
  | .findNumber r, k, s => s.checked p k (s.existing r) fun n => s.found p k n
  | .findAddress d a, k, s => s.checked p k (s.findAddress d a) fun n => s.found p k n
  | .findLabel l, k, s => s.checked p k (s.findLabel l) fun n => s.found p k n
  | .read r o n e, k, s => s.checked p k (s.readCheck p r o n e) fun d => s.enqueue p k d
  | .program r o f e b, k, s => s.checked p k (s.programCheck p r o f e b) fun d => s.enqueue p k d
  | .erase r f n e, k, s => s.checked p k (s.eraseCheck p r f n e) fun d => s.enqueue p k d
  | .define d b n l rr wr m, k, s => s.checked p k (s.defineChecks p (definitionOf d b n l rr wr m)) fun x =>
      s.defined p k x.1 x.2
  | .retire r, k, s => s.checked p k (s.retireCheck p r) fun n => s.retire p k n
  | .setRights r rr wr, k, s => s.checked p k (s.rightsCheck p r rr wr) fun x => s.rightsSet p k x.1 x.2.1 x.2.2
  | .setProfile d f, k, s => s.checked p k (s.profileCheck p d f) fun x => s.profileSet p k x.1 x.2
  | .recover d, k, s => s.checked p k (s.recoverCheck p d) fun d => s.recover p k d
  | .configure i v, k, s => s.checked p k (s.configureCheck p i v) fun before =>
      ({ s with settings := s.settings.assign i.toNat v.toNat }).answer p k .done (.configure i v.toNat before)
  | .cancel x, k, s => s.cancelled p k x
  | .deviceInfo d, k, s => s.checked p k (deviceNamed d) fun d =>
      s.answer p k .done .record (some (deviceInfoBytes (s.seq d) (s.profile d)))
  | .readSetting i, k, s => s.checked p k (s.settingValue i) fun v =>
      s.answer p k .done .record (some (i :: halfOf v))
  | .setAttention m, k, s => s.checked p k (maskCarried m) fun x =>
      (s.setLink p { s.link p with mask := x }).answer p k .done (.mask m)
  | .unread .., _, s => s

/-- A request command is the request of its kind with the action of its kind. -/
theorem exec_of_requestOf {c : Instr} {p : Port} {tag : Byte} {q : Request} (h : requestOf c = some (p, tag, q))
    (s : State) : exec c s = request p tag q (q.act p) s := by
  cases c <;> cases h <;> rfl

/-- A request command whose entry is taken comes to the action of its kind (R138, R139, R142). -/
theorem exec_admitted {c : Instr} {s : State} {p : Port} {tag : Byte} {q : Request} {k : Slot}
    (h : requestOf c = some (p, tag, q)) (a : s.Admits p tag q k) :
    exec c s = .next (q.act p k (s.admitted p tag q k)) := by
  rw [exec_of_requestOf h, request_admitted a]

namespace Machine

theorem State.checked_error {α : Type} {s : State} {p : Port} {k : Slot} {check : Except Result α} {act : α → State}
    {r : Result} (h : check = .error r) : s.checked p k check act = s.answer p k r := by
  rw [h]; rfl

theorem State.checked_ok {α : Type} {s : State} {p : Port} {k : Slot} {check : Except Result α} {act : α → State}
    {a : α} (h : check = .ok a) : s.checked p k check act = act a := by
  rw [h]; rfl

/-- A byte that names no slot, or a FREE one, names no region (R2). -/
theorem State.named_none {s : State} {b : Byte} (h : ∀ n, regionOf b = some n → (s.region n).state = .free) :
    s.named b = none := by
  unfold State.named
  cases hb : regionOf b with
  | none => rfl
  | some n => simp [h n hb]

theorem State.named_some {s : State} {b : Byte} {n : RegionId} (h : regionOf b = some n)
    (hf : (s.region n).state ≠ .free) : s.named b = some n := by
  unfold State.named
  rw [h]
  simp [hf]

/-- What a byte names is not FREE (R2). -/
theorem State.not_free_of_named {s : State} {b : Byte} {n : RegionId} (h : s.named b = some n) :
    (s.region n).state ≠ .free := by
  unfold State.named at h
  cases hb : regionOf b with
  | none => simp [hb] at h
  | some m =>
    simp only [hb] at h
    split at h
    · cases h
    · rename_i hf
      cases h
      simpa using hf

/-- The slot that a frame takes was VACANT (R139). -/
theorem State.Admits.vacant_entry {s : State} {p : Port} {tag : Byte} {q : Request} {k : Slot}
    (h : s.Admits p tag q k) : (s.entry p k).state = .vacant :=
  beq_iff_eq.mp (List.find?_some (p := fun k => ((s.exch p).entry k).state == .vacant) h.vacant)

/-- The entries after a frame has been taken (R139). -/
theorem State.entry_admitted (s : State) (p r : Port) (tag : Byte) (q : Request) (k j : Slot) :
    (s.admitted p tag q k).entry r j = if r = p ∧ j = k then
      { Entry.vacant with
        state := .waiting, tag := some tag, kind := some q.code, number := some (s.exch p).counter,
        device := s.deviceField q, region := regionField q, request := some q, payload := payloadOf q }
      else s.entry r j := by
  unfold State.entry State.admitted
  rw [State.exch_setExch]
  by_cases h : r = p
  · subst h
    simp only [if_true, true_and]
    exact Exchange.entry_put (s.exch r) k j _
  · simp only [h, false_and, if_false]
    rfl

theorem State.entry_admitted_same (s : State) (p : Port) (tag : Byte) (q : Request) (k : Slot) :
    (s.admitted p tag q k).entry p k =
      { Entry.vacant with
        state := .waiting, tag := some tag, kind := some q.code, number := some (s.exch p).counter,
        device := s.deviceField q, region := regionField q, request := some q, payload := payloadOf q } := by
  rw [State.entry_admitted, if_pos ⟨rfl, rfl⟩]

/-- An entry that stood before a frame was taken stands after it. -/
theorem State.Admits.entry_admitted {s : State} {p r : Port} {tag : Byte} {q : Request} {k j : Slot}
    (h : s.Admits p tag q k) (hv : (s.entry r j).state ≠ .vacant) :
    (s.admitted p tag q k).entry r j = s.entry r j := by
  rw [State.entry_admitted, if_neg]
  rintro ⟨rfl, rfl⟩
  exact hv h.vacant_entry

/-- An entry that is not VACANT is not the one that a frame takes (R139). -/
theorem State.Admits.other {s : State} {p r : Port} {tag : Byte} {q : Request} {k j : Slot} (h : s.Admits p tag q k)
    (hv : (s.entry r j).state ≠ .vacant) : ¬ (r = p ∧ j = k) := by
  rintro ⟨rfl, rfl⟩
  exact hv h.vacant_entry

/-- An operation in progress before a frame is taken is so after it, and no other (R7). -/
theorem State.Admits.entry_running {s : State} {p : Port} {tag : Byte} {q : Request} {k : Slot}
    (h : s.Admits p tag q k) (r : Port) (j : Slot) :
    (s.admitted p tag q k).entry r j = s.entry r j ∨
      ((s.admitted p tag q k).entry r j).state.running = false ∧ (s.entry r j).state.running = false := by
  by_cases hj : r = p ∧ j = k
  · obtain ⟨rfl, rfl⟩ := hj
    right
    rw [State.entry_admitted_same, h.vacant_entry]
    exact ⟨rfl, rfl⟩
  · left
    rw [State.entry_admitted, if_neg hj]

/-- Taking a frame starts no operation (R7). -/
theorem State.Admits.inProgress {s : State} {p : Port} {tag : Byte} {q : Request} {k : Slot}
    (h : s.Admits p tag q k) (n : RegionId) : (s.admitted p tag q k).inProgress n = s.inProgress n := by
  unfold State.inProgress
  congr 1; funext r; congr 1; funext j
  obtain e | ⟨e, e'⟩ := h.entry_running r j
  · rw [e]
  · rw [e, e']; rfl

theorem State.Admits.writeInProgress {s : State} {p : Port} {tag : Byte} {q : Request} {k : Slot}
    (h : s.Admits p tag q k) (r : Port) (n : RegionId) :
    (s.admitted p tag q k).writeInProgress r n = s.writeInProgress r n := by
  unfold State.writeInProgress
  congr 1; funext j
  obtain e | ⟨e, e'⟩ := h.entry_running r j
  · rw [e]
  · rw [e, e']; rfl

/-- A frame that is taken leaves every Exchange well formed (R134, R139). -/
theorem State.Admits.exch_form {s : State} {p : Port} {tag : Byte} {q : Request} {k : Slot} (h : s.Admits p tag q k)
    (w : ∀ r, (s.exch r).WellFormed) (r : Port) : ((s.admitted p tag q k).exch r).WellFormed := by
  unfold State.admitted
  rw [State.exch_setExch]
  split
  · exact Exchange.take_form _ (w p) k h.vacant_entry tag q.code h.tagged h.tagFree _ _ _ _
  · exact w r

/-- An entry that is not VACANT stands in the admission order of its port once a frame has been taken (R134). -/
theorem State.Admits.mem_order {s : State} {p r : Port} {tag : Byte} {q : Request} {k j : Slot}
    (h : s.Admits p tag q k) (w : ∀ r, (s.exch r).WellFormed) (hv : (s.entry r j).state ≠ .vacant) :
    j ∈ ((s.admitted p tag q k).exch r).order := by
  refine ((h.exch_form w r).orderLists j).mpr ?_
  have e : ((s.admitted p tag q k).exch r).entry j = s.entry r j := h.entry_admitted hv
  rw [e]
  exact hv

/-- A frame that is taken leaves every reference to a WAITING request right (R143). -/
theorem State.Admits.waitsReferred {s : State} {p : Port} {tag : Byte} {q : Request} {k : Slot}
    (h : s.Admits p tag q k) (w : s.WaitsReferred) : (s.admitted p tag q k).WaitsReferred := by
  have stays : ∀ {r : Port} {j : Slot}, (s.entry r j).state = .waiting →
      (s.admitted p tag q k).entry r j = s.entry r j := fun hw => h.entry_admitted (by rw [hw]; decide)
  have waits : ∀ {r : Port} {j : Slot} {kind : Byte}, s.waitsAs r j kind →
      (s.admitted p tag q k).waitsAs r j kind := by
    intro r j kind hw
    unfold State.waitsAs
    rw [stays hw.1]
    exact hw
  refine ⟨fun n c hc => ?_, fun n j hj => ?_, fun n e he => ?_, fun d e he => ?_, fun r j hj => ?_⟩
  · obtain ⟨hw, hr⟩ := w.claims n c hc
    exact ⟨waits hw, by rw [stays hw.1]; exact hr⟩
  · obtain ⟨r, hp, hw, hr⟩ := w.releases n j hj
    exact ⟨r, hp, waits hw, by rw [stays hw.1]; exact hr⟩
  · obtain ⟨hw, hr⟩ := w.retires n e he
    exact ⟨waits hw, by rw [stays hw.1]; exact hr⟩
  · obtain ⟨hw, hd⟩ := w.devices d e he
    have hs : (s.entry e.port e.slot).state = .waiting := hw.elim And.left And.left
    exact ⟨hw.imp waits waits, by rw [stays hs]; exact hd⟩
  · have hl : (s.admitted p tag q k).link r =
        if r = p then (s.link p).afterFrame tag q.code q.wire else s.link r := s.link_setLink p r _
    rw [hl] at hj ⊢
    split at hj
    · rename_i e
      subst e
      have phase : (s.link r).phase = .putHeader := by
        have := h.awaits
        simp only [Link.awaitsFrame, Bool.and_eq_true, beq_iff_eq] at this
        exact this.1.1.1.2
      exact absurd (phase.symm.trans (w.items r j hj).1) (by decide)
    · rename_i e
      obtain ⟨hp, ha⟩ := w.items r j hj
      rw [if_neg e, h.entry_admitted (by rw [ha]; decide)]
      exact ⟨hp, ha⟩

end Machine

end Sys2Proof
end

section
/-! RETIRE (R20 to R23): what the retirement of a region does to single records, and O28 and O29. -/

namespace Sys2Proof.Machine

/-! ### The checks -/

/-- A region in service, named by the administrator, passes the checks of RETIRE (R20). -/
theorem State.retireCheck_ok {s : State} {p : Port} {b : Byte} {n : RegionId} (ha : s.admin = some p)
    (hb : regionOf b = some n) (hf : (s.region n).state ≠ .free) (hr : (s.region n).state ≠ .retiring) :
    s.retireCheck p b = .ok n := by
  simp [State.retireCheck, State.notAdmin, ha, State.inService, State.named_some hb hf, hr]

/-! ### The answers of a retirement -/

/-- An entry after a retirement has answered the port's queued work, release and claim (R21 items 1, 3 and 4). -/
def State.retiredEntry (s : State) (n : RegionId) (q : Port) (j : Slot) : Entry :=
  if j ∈ s.retiredSlots q n then (s.entry q j).answered .retired .none none else s.entry q j

theorem State.retiredEntry_mem {s : State} {n : RegionId} {q : Port} {j : Slot} (h : j ∈ s.retiredSlots q n) :
    s.retiredEntry n q j = (s.entry q j).answered .retired .none none := if_pos h

theorem State.retiredEntry_not_mem {s : State} {n : RegionId} {q : Port} {j : Slot} (h : j ∉ s.retiredSlots q n) :
    s.retiredEntry n q j = s.entry q j := if_neg h

/-- What a retirement answers: queued work, the waiting RELEASE and the waiting claims of the region (R21). -/
theorem State.mem_retiredSlots {s : State} {q : Port} {n : RegionId} {j : Slot} :
    j ∈ s.retiredSlots q n ↔
      (j ∈ (s.exch q).order ∧ (s.entry q j).state = .queued ∧ (s.entry q j).region = some n) ∨
      ((s.region n).holder = some q ∧ (s.region n).release = some j) ∨
      ∃ c ∈ (s.region n).queue, c.port = q ∧ c.slot = j := by
  unfold State.retiredSlots
  simp only [List.mem_append, State.mem_slotsWhere, Bool.and_eq_true, beq_iff_eq, List.mem_map, List.mem_filter,
    or_assoc, and_assoc]
  refine or_congr Iff.rfl (or_congr ?_ Iff.rfl)
  by_cases h : (s.region n).holder = some q <;> simp [h]

/-- The part of a retirement that answers. -/
def State.retireAnswers (s : State) (n : RegionId) : State :=
  allPorts.foldl (fun t p => t.answerSlots p (s.retiredSlots p n) .retired) s

theorem State.entry_retireAnswers (s : State) (n : RegionId) (q : Port) (j : Slot) :
    (s.retireAnswers n).entry q j = s.retiredEntry n q j := by
  simp only [State.retireAnswers, allPorts, List.foldl_cons, List.foldl_nil, State.entry_answerSlots,
    State.retiredEntry]
  cases q <;> simp

/-- The part of a retirement that stops the ACTIVE erase ranges of every port. -/
def State.stopRanges (s : State) (n : RegionId) : State :=
  allPorts.foldl (fun t p => t.stopSlots p (t.slotsWhere p (Entry.activeRangeOn n)) .retired) s

/-- A range that is told to stop once more stays as it is. -/
theorem State.entry_stopRanges (s : State) (n : RegionId) (q : Port) (j : Slot) :
    (s.stopRanges n).entry q j =
      if j ∈ (s.exch q).order ∧ (s.entry q j).activeRangeOn n = true then (s.entry q j).stopRequested .retired
      else s.entry q j := by
  simp only [State.stopRanges, allPorts, List.foldl_cons, List.foldl_nil, State.entry_stopSlots,
    State.mem_slotsWhere, State.order_stopSlots]
  cases q <;> simp

/-- The part of a retirement that comes before its notices. -/
def State.retireWork (s : State) (n : RegionId) : State :=
  (s.inAdmissionOrder fun t => t.retireAnswers n).stopRanges n

theorem State.retireWork_regions (s : State) (n : RegionId) : (s.retireWork n).regions = s.regions := by
  simp [State.retireWork, State.stopRanges, State.retireAnswers, allPorts, State.inAdmissionOrder, State.regroup]

theorem State.retireWork_notices (s : State) (n : RegionId) : (s.retireWork n).notices = s.notices := by
  simp [State.retireWork, State.stopRanges, State.retireAnswers, allPorts, State.inAdmissionOrder, State.regroup]

theorem State.retireWork_work (s : State) (n : RegionId) : s.TableWork (s.retireWork n) := by
  have answers : s.TableWork (s.retireAnswers n) :=
    foldl_keeps State.TableWork .refl .trans _ _ (fun t p _ => t.answerSlots_work p _ _) s
  exact (State.regroup_work answers).trans <|
     foldl_keeps State.TableWork .refl .trans _ _ (fun t p _ => t.stopSlots_work p _ _) _

theorem State.order_retireAnswers (s : State) (n : RegionId) (q : Port) :
    ((s.retireAnswers n).exch q).order = (s.exch q).order :=
  foldl_keeps (fun a b : State => (b.exch q).order = (a.exch q).order) (fun _ => rfl) (fun h g => g.trans h) _ _
    (fun t p _ => t.order_answerSlots p q _ _) s

/-- An entry after the answers and the stops of a retirement (R21). -/
theorem State.entry_retireWork (s : State) (n : RegionId) (q : Port) (j : Slot) :
    (s.retireWork n).entry q j =
      if j ∈ (s.exch q).order ∧ (s.retiredEntry n q j).activeRangeOn n = true then
        (s.retiredEntry n q j).stopRequested .retired
      else s.retiredEntry n q j := by
  simp only [State.retireWork, State.entry_stopRanges, State.inAdmissionOrder, State.entry_regroup,
    State.order_regroup, State.entry_retireAnswers, State.order_retireAnswers]

/-! ### The retirement as a whole -/

/-- The notices of a retirement (R21 item 5): the ex-holder hears LEASE_LOST, then every watcher RETIRED. -/
def State.postRetired (s : State) (n : RegionId) (r : Region) : State :=
  (match r.holder with
    | none => s
    | some p => s.post p ⟨n, .leaseLost, r.generation⟩).postSet r.watch ⟨n, .retired, r.generation⟩

/-- The record of a region whose work a retirement has ended (R21): no lease, no claim and no watcher. -/
def Region.retired (r : Region) : Region := { r.leaseEnded with queue := [], watch := .empty }

theorem State.retireAction_eq (s : State) (n : RegionId) :
    s.retireAction n = ((s.retireWork n).postRetired n (s.region n)).setRegion n
      (s.region n).retired := rfl

theorem State.postRetired_exchs (s : State) (n : RegionId) (r : Region) : (s.postRetired n r).exchs = s.exchs := by
  unfold State.postRetired
  cases r.holder <;> simp [State.post]

theorem State.postRetired_regions (s : State) (n : RegionId) (r : Region) :
    (s.postRetired n r).regions = s.regions := by
  unfold State.postRetired
  cases r.holder <;> simp

theorem State.noticeList_postRetired (s : State) (n : RegionId) (r : Region) (q : Port) :
    (s.postRetired n r).noticeList q =
      let l := if r.holder = some q then postTo ⟨n, .leaseLost, r.generation⟩ (s.noticeList q) else s.noticeList q
      if r.watch.has q = true then postTo ⟨n, .retired, r.generation⟩ l else l := by
  unfold State.postRetired
  cases h : r.holder with
  | none => simp [State.noticeList_postSet]
  | some p => simp only [State.noticeList_postSet, State.noticeList_post, Option.some.injEq, eq_comm]

theorem State.retireAction_work (s : State) (n : RegionId) : s.TableWork (s.retireAction n) := by
  rw [State.retireAction_eq]
  refine (s.retireWork_work n).trans ?_
  generalize s.retireWork n = t
  unfold State.postRetired
  cases (s.region n).holder with
  | none => exact (t.postSet_work _ _).trans (State.setRegion_work _ n _)
  | some p => exact ((t.setNotices_work p _).trans (State.postSet_work _ _ _)).trans (State.setRegion_work _ n _)

theorem State.entry_retireAction (s : State) (n : RegionId) (q : Port) (j : Slot) :
    (s.retireAction n).entry q j = (s.retireWork n).entry q j := by
  rw [State.retireAction_eq, State.entry_setRegion]
  exact State.entry_of_exchs (State.postRetired_exchs ..) q j

theorem State.region_retireAction (s : State) (n m : RegionId) :
    (s.retireAction n).region m = if m = n then (s.region n).retired else s.region m := by
  rw [State.retireAction_eq, State.region_setRegion, State.region_of_regions (State.postRetired_regions ..),
    State.region_of_regions (s.retireWork_regions n)]

theorem State.noticeList_retireAction (s : State) (n : RegionId) (q : Port) :
    (s.retireAction n).noticeList q =
      let l := if (s.region n).holder = some q then
        postTo ⟨n, .leaseLost, (s.region n).generation⟩ (s.noticeList q) else s.noticeList q
      if (s.region n).watch.has q = true then postTo ⟨n, .retired, (s.region n).generation⟩ l else l := by
  rw [State.retireAction_eq, State.noticeList_setRegion, State.noticeList_postRetired,
    State.noticeList_of_notices (s.retireWork_notices n)]

/-! ### An accepted RETIRE -/

/-- What a retirement answers names the region, and is QUEUED or waits as a CLAIM or a RELEASE (R21, R143). -/
theorem State.WaitsReferred.retiredSlots_waiting {s : State} (w : s.WaitsReferred) {n : RegionId} {q : Port} {j : Slot}
    (h : j ∈ s.retiredSlots q n) :
    ((s.entry q j).state = .queued ∨ (s.entry q j).state = .waiting ∧ (s.entry q j).kind ≠ some 0x32#8) ∧
      (s.entry q j).region = some n := by
  obtain ⟨-, hs, hr⟩ | ⟨hh, hj⟩ | ⟨c, hc, rfl, rfl⟩ := State.mem_retiredSlots.mp h
  · exact ⟨.inl hs, hr⟩
  · obtain ⟨p, hp, ⟨hs, hk⟩, hr⟩ := w.releases n j hj
    cases hh.symm.trans hp
    exact ⟨.inr ⟨hs, by rw [hk]; decide⟩, hr⟩
  · obtain ⟨⟨hs, hk⟩, hr⟩ := w.claims n c hc
    exact ⟨.inr ⟨hs, by rw [hk]; decide⟩, hr⟩

/-- A retirement ends no operation in progress (R21, R22). -/
theorem State.inProgress_retireAction {s : State} (w : s.WaitsReferred) (n m : RegionId) :
    (s.retireAction n).inProgress m = s.inProgress m := by
  refine State.inProgress_congr fun q j => ?_
  rw [State.entry_retireAction, State.entry_retireWork]
  have base : (s.retiredEntry n q j).state.running = (s.entry q j).state.running ∧
      (s.retiredEntry n q j).region = (s.entry q j).region := by
    by_cases h : j ∈ s.retiredSlots q n
    · rw [State.retiredEntry_mem h, Entry.answered_region]
      refine ⟨Entry.answered_running ?_ _ _ _, rfl⟩
      obtain ⟨hs | ⟨hs, -⟩, -⟩ := w.retiredSlots_waiting h <;> rw [hs] <;> decide
    · rw [State.retiredEntry_not_mem h]
      exact ⟨rfl, rfl⟩
  split
  · simpa using base
  · exact base

/-- A RETIRE of a region with an operation in progress waits (R22). -/
theorem State.retire_waits {s : State} {p : Port} {k : Slot} {n : RegionId} (w : s.WaitsReferred)
    (h : s.inProgress n = true) :
    s.retire p k n = (s.retireAction n).setRegion n
      { (s.retireAction n).region n with state := .retiring, pendingRetire := some ⟨p, k⟩ } := by
  unfold State.retire
  rw [← State.inProgress_retireAction w n] at h
  exact if_pos h

/-- A RETIRE of a region with no operation in progress frees it (R22, R23). -/
theorem State.retire_frees {s : State} {p : Port} {k : Slot} {n : RegionId} (w : s.WaitsReferred)
    (h : s.inProgress n = false) :
    s.retire p k n = ((s.retireAction n).freeRegion n).answer p k .done (.epoch (s.epoch + 1#16)) := by
  unfold State.retire
  rw [← State.inProgress_retireAction w n] at h
  have e : ((s.retireAction n).freeRegion n).epoch = s.epoch + 1#16 := by
    rw [State.epoch_freeRegion, (s.retireAction_work n).epoch]
  dsimp only
  rw [if_neg (by simp [h]), e]

/-- What an accepted RETIRE leaves in the region records (R22, R23). -/
theorem State.region_retire (s : State) (p : Port) (k : Slot) (n m : RegionId) :
    (s.retire p k n).region m =
      if m = n then
        if (s.retireAction n).inProgress n then
          { (s.region n).retired with state := .retiring, pendingRetire := some ⟨p, k⟩ }
        else Region.free
      else s.region m := by
  have hn : (s.retireAction n).region n = (s.region n).retired := by
    rw [State.region_retireAction, if_pos rfl]
  by_cases hm : m = n
  · unfold State.retire
    dsimp only
    simp only [hm, if_true]
    split
    · rw [State.region_setRegion_same, hn]
    · rw [State.region_answer, State.region_freeRegion, if_pos rfl]
  · unfold State.retire
    dsimp only
    rw [if_neg hm]
    split
    · rw [State.region_setRegion, if_neg hm, State.region_retireAction, if_neg hm]
    · rw [State.region_answer, State.region_freeRegion, if_neg hm, State.region_retireAction, if_neg hm]

/-- An accepted RETIRE changes no record but those of the table, the Exchanges and the Notice Lists. -/
theorem State.retire_work (s : State) (p : Port) (k : Slot) (n : RegionId) :
    ∃ e, State.TableWork { s with epoch := e } (s.retire p k n) := by
  unfold State.retire
  dsimp only
  split
  · exact ⟨s.epoch, (s.retireAction_work n).trans (State.setRegion_work _ n _)⟩
  · refine ⟨s.epoch + 1#16, State.TableWork.trans (t := { s.retireAction n with epoch := s.epoch + 1#16 }) ?_ ?_⟩
    · have h := s.retireAction_work n
      unfold State.TableWork at h ⊢
      rw [h]
    · have h := (s.retireAction n).freeRegion_work n
      rw [(s.retireAction_work n).epoch] at h
      exact h.trans (State.answer_work _ p k _ _ _)

/-- The entry of an accepted RETIRE that waits, whatever its answer, is not touched by its retirement. -/
theorem State.entry_retireAction_self {s : State} {p : Port} {k : Slot} (n : RegionId) (w : s.WaitsReferred)
    (hs : (s.entry p k).state = .waiting) (hk : (s.entry p k).kind = some 0x32#8) :
    (s.retireAction n).entry p k = s.entry p k := by
  have hm : k ∉ s.retiredSlots p n := by
    intro h
    obtain ⟨h | ⟨-, h⟩, -⟩ := w.retiredSlots_waiting h
    · rw [hs] at h; cases h
    · exact h hk
  rw [State.entry_retireAction, State.entry_retireWork, State.retiredEntry_not_mem hm, if_neg]
  rintro ⟨-, h⟩
  simp [Entry.activeRangeOn, hs] at h

/-- Settles O28: the retirement ends no operation in progress, so the RETIRE waits or frees the region by what stood
before it. -/
theorem retireFreesOrWaits : Obligations.RetireFreesOrWaits := by
  intro s p tag b k n a hadmin hb hf hr w
  have wu := a.waitsReferred w
  have hexec : exec (.retire p tag b) s = .next ((s.admitted p tag (.retire b) k).retire p k n) := by
    rw [exec_admitted (q := .retire b) rfl a]
    exact congrArg _ (State.checked_ok (State.retireCheck_ok hadmin hb hf hr))
  refine ⟨_, hexec, fun m hm => ?_, fun hp => ?_, fun hp => ?_, ?_⟩
  · rw [State.region_retire, if_neg hm]; rfl
  · rw [← a.inProgress] at hp
    have hn : (s.region n).pendingRetire ≠ some ⟨p, k⟩ := by
      intro h
      have := (w.retires n _ h).1.1
      rw [a.vacant_entry] at this
      cases this
    have he := State.entry_admitted_same s p tag (.retire b) k
    have hu : (((s.admitted p tag (.retire b) k).retireAction n).freeRegion n).entry p k =
        (s.admitted p tag (.retire b) k).entry p k := by
      rw [State.entry_freeRegion, if_neg, State.entry_retireAction_self n wu (by rw [he]) (by rw [he]; rfl)]
      rw [State.region_retireAction, if_pos rfl]
      exact hn
    have ht : (((s.admitted p tag (.retire b) k).retire p k n)).entry p k =
        ((s.admitted p tag (.retire b) k).entry p k).answered .done (.epoch (s.epoch + 1#16)) none := by
      rw [State.retire_frees wu hp, State.entry_answer, if_pos ⟨rfl, rfl⟩, hu]
      rfl
    rw [he, Entry.answered_of_open rfl] at ht
    refine ⟨?_, ?_, by rw [ht], by rw [ht], by rw [ht]; rfl⟩
    · rw [State.region_retire, if_pos rfl, State.inProgress_retireAction wu, hp]; rfl
    · rw [State.retire_frees wu hp, State.epoch_answer, State.epoch_freeRegion, (State.retireAction_work _ n).epoch]
      rfl
  · rw [← a.inProgress] at hp
    constructor
    · rw [State.retire_waits wu hp]
      exact (State.retireAction_work _ n).epoch
    · rw [State.region_retire, if_pos rfl, State.inProgress_retireAction wu, if_pos hp]; rfl
  · obtain ⟨e, h⟩ := (s.admitted p tag (.retire b) k).retire_work p k n
    rw [show (s.admitted p tag (.retire b) k).retire p k n = _ from h]
    rfl

/-- An entry that neither makes the RETIRE nor waits for the region to become FREE stands after it as its retirement leaves
it. -/
theorem State.entry_retire_of_other {s : State} {p q : Port} {k j : Slot} {n : RegionId} (hk : ¬ (q = p ∧ j = k))
    (hr : (s.region n).pendingRetire ≠ some ⟨q, j⟩) :
    (s.retire p k n).entry q j = (s.retireWork n).entry q j := by
  unfold State.retire
  dsimp only
  split
  · rw [State.entry_setRegion, State.entry_retireAction]
  · rw [State.entry_answer, if_neg hk, State.entry_freeRegion, if_neg, State.entry_retireAction]
    rw [State.region_retireAction, if_pos rfl]
    exact hr

/-- What a retirement answers is not the RETIRE that waits for the region (R143). -/
theorem State.WaitsReferred.pendingRetire_ne {s : State} (w : s.WaitsReferred) {n : RegionId} {q : Port} {j : Slot}
    (h : (s.entry q j).state ≠ .waiting ∨ (s.entry q j).kind ≠ some 0x32#8) :
    (s.region n).pendingRetire ≠ some ⟨q, j⟩ := by
  intro e
  obtain ⟨⟨hs, hk⟩, -⟩ := w.retires n _ e
  exact h.elim (fun h => h hs) fun h => h hk

/-- An accepted RETIRE answers RETIRED what its retirement reaches (R21 items 1, 3 and 4). -/
theorem State.retire_answers {s : State} {p q : Port} {k j : Slot} {n : RegionId} (w : s.WaitsReferred)
    (hs : (s.entry p k).state = .waiting) (hk : (s.entry p k).kind = some 0x32#8) (hm : j ∈ s.retiredSlots q n) :
    ((s.retire p k n).entry q j).state = .answered ∧ ((s.retire p k n).entry q j).result = some .retired := by
  obtain ⟨hw, -⟩ := w.retiredSlots_waiting hm
  have other : ¬ (q = p ∧ j = k) := by
    rintro ⟨rfl, rfl⟩
    rw [hs, hk] at hw
    exact hw.elim (fun h => absurd h (by decide)) fun h => h.2 rfl
  have pending : (s.region n).pendingRetire ≠ some ⟨q, j⟩ :=
    w.pendingRetire_ne (hw.imp (fun h => by rw [h]; decide) And.right)
  have isOpen : (s.entry q j).state.open = true := by
    obtain h | ⟨h, -⟩ := hw <;> rw [h] <;> rfl
  have e : (s.retire p k n).entry q j = (s.entry q j).answered .retired .none none := by
    rw [State.entry_retire_of_other other pending, State.entry_retireWork, State.retiredEntry_mem hm, if_neg]
    rintro ⟨-, h⟩
    rw [Entry.answered_of_open isOpen] at h
    simp [Entry.activeRangeOn] at h
  rw [e, Entry.answered_of_open isOpen]
  exact ⟨rfl, rfl⟩

theorem State.noticeList_retire (s : State) (p : Port) (k : Slot) (n : RegionId) (q : Port) :
    (s.retire p k n).noticeList q = (s.retireAction n).noticeList q := by
  unfold State.retire
  dsimp only
  split
  · rfl
  · rw [State.noticeList_answer, State.noticeList_freeRegion]

/-- Settles O29: each entry is in one of the cases of R21, since the references of a region wait and its RETIRE is none of
them. -/
theorem retirementEndsTheWork : Obligations.RetirementEndsTheWork := by
  intro s p tag b k n a hadmin hb hf hr form w
  have wu := a.waitsReferred w
  have self := State.entry_admitted_same s p tag (.retire b) k
  have hs : ((s.admitted p tag (.retire b) k).entry p k).state = .waiting := by rw [self]
  have hk : ((s.admitted p tag (.retire b) k).entry p k).kind = some 0x32#8 := by rw [self]; rfl
  have hexec : exec (.retire p tag b) s = .next ((s.admitted p tag (.retire b) k).retire p k n) := by
    rw [exec_admitted (q := .retire b) rfl a]
    exact congrArg _ (State.checked_ok (State.retireCheck_ok hadmin hb hf hr))
  refine ⟨_, hexec, fun q j hq hn => ?_, fun c hc => ?_, fun q j hh hj => ?_, fun q j ha hstop => ?_,
    fun q j hne hnw hn => ?_, fun q => ?_⟩
  · have hv : (s.entry q j).state ≠ .vacant := by rw [hq]; decide
    refine State.retire_answers wu hs hk (State.mem_retiredSlots.mpr (.inl ⟨a.mem_order form hv, ?_⟩))
    rw [a.entry_admitted hv]
    exact ⟨hq, hn⟩
  · exact State.retire_answers wu hs hk (State.mem_retiredSlots.mpr (.inr (.inr ⟨c, hc, rfl, rfl⟩)))
  · exact State.retire_answers wu hs hk (State.mem_retiredSlots.mpr (.inr (.inl ⟨hh, hj⟩)))
  · have hact : (s.entry q j).state = .active := by
      simp only [Entry.activeRangeOn, Bool.and_eq_true, beq_iff_eq] at ha
      exact ha.1.1
    have hv : (s.entry q j).state ≠ .vacant := by rw [hact]; decide
    have eu := a.entry_admitted hv
    have notMem : j ∉ (s.admitted p tag (.retire b) k).retiredSlots q n := by
      intro h
      obtain ⟨h | ⟨h, -⟩, -⟩ := wu.retiredSlots_waiting h <;> rw [eu, hact] at h <;> cases h
    rw [State.entry_retire_of_other, State.entry_retireWork, State.retiredEntry_not_mem notMem, eu,
      if_pos ⟨a.mem_order form hv, ha⟩, Entry.stopRequested_of_active hact hstop]
    · exact a.other hv
    · exact wu.pendingRetire_ne (.inl (by rw [eu, hact]; decide))
  · have other : ¬ (q = p ∧ j = k) := fun ⟨h, g⟩ => hne (by rw [h, g])
    have eu : (s.admitted p tag (.retire b) k).entry q j = s.entry q j := by
      rw [State.entry_admitted, if_neg other]
    have notMem : j ∉ (s.admitted p tag (.retire b) k).retiredSlots q n := by
      intro h
      have := (wu.retiredSlots_waiting h).2
      rw [eu] at this
      exact hn this
    rw [State.entry_retire_of_other other (wu.pendingRetire_ne (.inl (by rw [eu]; exact hnw))),
      State.entry_retireWork, State.retiredEntry_not_mem notMem, eu, if_neg]
    rintro ⟨-, h⟩
    simp only [Entry.activeRangeOn, Bool.and_eq_true, beq_iff_eq] at h
    exact hn h.2
  · rw [State.noticeList_retire, State.noticeList_retireAction]
    rfl

end Sys2Proof.Machine
end

section
/-! SET_RIGHTS (R24): what the new rights and the revocation do to single records, and O30. -/

namespace Sys2Proof.Machine

/-! ### Claims that leave a queue -/

/-- Where a port has no claim record nothing leaves the queue (R32). -/
theorem Region.withoutClaim_of_none {r : Region} {p : Port} (h : r.claimOf p = none) : r.withoutClaim p = r := by
  unfold Region.withoutClaim
  rw [List.filter_eq_self.mpr]
  intro c hc
  have := List.find?_eq_none.mp h c hc
  simpa using this

theorem Region.claimOf_port {r : Region} {p : Port} {c : ClaimRecord} (h : r.claimOf p = some c) : c.port = p :=
  beq_iff_eq.mp (List.find?_some (p := fun c : ClaimRecord => c.port == p) h)

/-- The claims of the other ports stay (R32). -/
theorem Region.claimOf_withoutClaim {r : Region} {p q : Port} (h : q ≠ p) :
    (r.withoutClaim p).claimOf q = r.claimOf q := by
  unfold Region.claimOf Region.withoutClaim
  rw [List.find?_filter]
  congr 1
  funext c
  by_cases hc : c.port = q
  · simp [hc, h]
  · simp [hc]

/-- In a queue with one claim for each port a claim record is the one of its port (R32). -/
theorem Region.claimOf_of_mem {r : Region} (w : (r.queue.map ClaimRecord.port).Nodup) {c : ClaimRecord}
    (hc : c ∈ r.queue) : r.claimOf c.port = some c := by
  cases h : r.claimOf c.port with
  | none =>
    have := List.find?_eq_none.mp h c hc
    simp at this
  | some d =>
    have hd : d ∈ r.queue := List.mem_of_find?_eq_some h
    exact congrArg some (List.inj_on_of_nodup_map w hd hc (Region.claimOf_port h))

theorem State.region_dropClaim (s : State) (n m : RegionId) (p : Port) (r : Result) :
    (s.dropClaim n p r).region m = if m = n then (s.region n).withoutClaim p else s.region m := by
  unfold State.dropClaim
  split
  · rename_i h
    rw [Region.withoutClaim_of_none h]
    split
    · rename_i e; rw [e]
    · rfl
  · rw [State.region_answer, State.region_setRegion]

theorem State.entry_dropClaim (s : State) (n : RegionId) (p q : Port) (j : Slot) (r : Result) :
    (s.dropClaim n p r).entry q j = if q = p ∧ ((s.region n).claimOf p).map ClaimRecord.slot = some j then
      (s.entry q j).answered r .none none else s.entry q j := by
  unfold State.dropClaim
  split
  · rename_i h; simp [h]
  · rename_i c h
    rw [State.entry_answer, State.entry_setRegion, h]
    simp only [Option.map_some, Option.some.injEq, eq_comm]

@[simp] theorem State.order_dropClaim (s : State) (n : RegionId) (p q : Port) (r : Result) :
    ((s.dropClaim n p r).exch q).order = (s.exch q).order := by
  unfold State.dropClaim
  split
  · rfl
  · exact State.order_answer ..

@[simp] theorem State.noticeList_dropClaim (s : State) (n : RegionId) (p q : Port) (r : Result) :
    (s.dropClaim n p r).noticeList q = s.noticeList q := by
  unfold State.dropClaim
  split <;> rfl

/-! ### Claims without write right (R24 item 2) -/

/-- The claim records of the ports without write right leave the queue, each CLAIM answered NO_RIGHT. -/
def State.dropRightless (s : State) (n : RegionId) (wr : PortSet) : State :=
  allPorts.foldl (fun s q => if wr.has q then s else s.dropClaim n q .noRight) s

theorem State.dropRightless_work (s : State) (n : RegionId) (wr : PortSet) : s.TableWork (s.dropRightless n wr) := by
  refine foldl_keeps State.TableWork .refl .trans _ _ (fun s q _ => ?_) s
  split
  · exact .refl s
  · exact s.dropClaim_work n q _

/-- A region with the claims of the ports that have a right, in their order. -/
def Region.rightful (r : Region) (wr : PortSet) : Region := { r with queue := r.queue.filter fun c => wr.has c.port }

theorem State.region_dropRightless (s : State) (n m : RegionId) (wr : PortSet) :
    (s.dropRightless n wr).region m = if m = n then (s.region n).rightful wr else s.region m := by
  have one : ∀ (s : State) (q : Port) (m : RegionId), (if wr.has q then s else s.dropClaim n q .noRight).region m =
      if m = n then { s.region n with queue := (s.region n).queue.filter fun c => wr.has q || !(c.port == q) }
      else s.region m := by
    intro s q m
    cases h : wr.has q
    · simp only [Bool.false_eq_true, if_false, Bool.false_or]
      exact s.region_dropClaim n m q _
    · simp only [if_true, Bool.true_or, List.filter_true]
      split
      · rename_i e; rw [e]
      · rfl
  simp only [State.dropRightless, allPorts, List.foldl_cons, List.foldl_nil, one, if_true]
  by_cases hm : m = n
  · simp only [hm, if_true, List.filter_filter, Region.rightful]
    congr 1
    refine List.filter_congr fun c _ => ?_
    cases c.port <;> cases wr.has .a <;> cases wr.has .b <;> cases wr.has .c <;> rfl
  · simp only [hm, if_false]

theorem State.entry_dropRightless (s : State) (n : RegionId) (wr : PortSet) (q : Port) (j : Slot) :
    (s.dropRightless n wr).entry q j =
      if wr.has q = false ∧ ((s.region n).claimOf q).map ClaimRecord.slot = some j then
        (s.entry q j).answered .noRight .none none else s.entry q j := by
  have one : ∀ (s : State) (p : Port), (if wr.has p then s else s.dropClaim n p .noRight).entry q j =
      if q = p ∧ wr.has q = false ∧ ((s.region n).claimOf q).map ClaimRecord.slot = some j then
        (s.entry q j).answered .noRight .none none else s.entry q j := by
    intro s p
    by_cases hp : q = p
    · subst hp
      cases h : wr.has q
      · simp only [Bool.false_eq_true, if_false, State.entry_dropClaim, true_and]
      · simp
    · simp only [hp, false_and, if_false]
      split
      · rfl
      · rw [State.entry_dropClaim, if_neg (fun h => hp h.1)]
  have claims : ∀ (s : State) (p : Port), q ≠ p →
      ((if wr.has p then s else s.dropClaim n p .noRight).region n).claimOf q = (s.region n).claimOf q := by
    intro s p hp
    split
    · rfl
    · rw [State.region_dropClaim, if_pos rfl, Region.claimOf_withoutClaim hp]
  simp only [State.dropRightless, allPorts, List.foldl_cons, List.foldl_nil, one]
  cases q <;> simp [claims]

theorem State.order_dropRightless (s : State) (n : RegionId) (wr : PortSet) (q : Port) :
    ((s.dropRightless n wr).exch q).order = (s.exch q).order := by
  refine foldl_keeps (fun a b : State => (b.exch q).order = (a.exch q).order) (fun _ => rfl) (fun h g => g.trans h)
    _ _ (fun s p _ => ?_) s
  split
  · rfl
  · exact s.order_dropClaim n p q _

theorem State.noticeList_dropRightless (s : State) (n : RegionId) (wr : PortSet) (q : Port) :
    (s.dropRightless n wr).noticeList q = s.noticeList q := by
  refine foldl_keeps (fun a b : State => b.noticeList q = a.noticeList q) (fun _ => rfl) (fun h g => g.trans h)
    _ _ (fun s p _ => ?_) s
  split
  · rfl
  · exact s.noticeList_dropClaim n p q _

/-! ### The loss of a lease (R42) -/

/-- An entry after the holder has been told of its loss (R42 items 1 to 3, R44). -/
theorem State.entry_leaseLost (s : State) (n : RegionId) (p q : Port) (j : Slot) :
    (s.leaseLost n p).entry q j =
      if q = p then
        if j ∈ (s.exch q).order ∧ (s.entry q j).activeRangeOn n = true then
          (if (j ∈ (s.exch q).order ∧ (s.entry q j).queuedWriteOn n = true) ∨ (s.region n).release = some j then
            (s.entry q j).answered .leaseLost .none none else s.entry q j).stopRequested .leaseLost
        else if (j ∈ (s.exch q).order ∧ (s.entry q j).queuedWriteOn n = true) ∨ (s.region n).release = some j then
          (s.entry q j).answered .leaseLost .none none else s.entry q j
      else s.entry q j := by
  unfold State.leaseLost
  simp only [State.entry_post, State.entry_stopSlots, State.entry_answerWhere, State.entry_answerSlots,
    State.mem_slotsWhere]
  by_cases hq : q = p
  · subst hq
    simp only [true_and, if_true]
    by_cases hr : (s.region n).release = some j <;>
      by_cases hw : j ∈ (s.exch q).order ∧ (s.entry q j).queuedWriteOn n = true <;> simp [hr, hw]
  · simp [hq]

/-- A loss leaves what is no work of the ex-holder on the region (R42). -/
theorem State.entry_leaseLost_of_other {s : State} {n : RegionId} {p q : Port} {j : Slot}
    (hw : (s.entry q j).queuedWriteOn n = false) (hr : ¬ (q = p ∧ (s.region n).release = some j))
    (ha : (s.entry q j).activeRangeOn n = false) : (s.leaseLost n p).entry q j = s.entry q j := by
  rw [State.entry_leaseLost]
  by_cases hq : q = p
  · have hn : ¬ (s.region n).release = some j := fun h => hr ⟨hq, h⟩
    subst hq
    simp [hw, ha, hn]
  · simp [hq]

theorem State.noticeList_leaseLost (s : State) (n : RegionId) (p q : Port) :
    (s.leaseLost n p).noticeList q =
      if q = p then postTo ⟨n, .leaseLost, (s.region n).generation⟩ (s.noticeList q) else s.noticeList q := by
  unfold State.leaseLost
  rw [State.noticeList_post]
  have h : (((s.answerSlots p (s.slotsWhere p (Entry.queuedWriteOn n)) .leaseLost).answerWhere p
      (s.region n).release .leaseLost).stopSlots p (s.slotsWhere p (Entry.activeRangeOn n)) .leaseLost).notices =
      s.notices := by simp
  rw [State.noticeList_of_notices h]

/-- A loss ends no operation in progress: what it answers is QUEUED, or the RELEASE, which waits (R42). -/
theorem State.writeInProgress_leaseLost {s : State} {n : RegionId} {p : Port}
    (h : ∀ j, (s.region n).release = some j → (s.entry p j).state ≠ .active) (q : Port) (m : RegionId) :
    (s.leaseLost n p).writeInProgress q m = s.writeInProgress q m := by
  refine State.writeInProgress_congr fun j => ?_
  rw [State.entry_leaseLost]
  have answered : ∀ (c : Prop) [Decidable c], (c → (s.entry q j).state ≠ .active) →
      let e := if c then (s.entry q j).answered .leaseLost .none none else s.entry q j
      e.state.running = (s.entry q j).state.running ∧ e.region = (s.entry q j).region ∧
        e.request = (s.entry q j).request := by
    intro c _ hc
    by_cases hd : c
    · simp [hd, Entry.answered_running (hc hd)]
    · simp [hd]
  split
  · rename_i hq
    subst hq
    have := answered ((j ∈ (s.exch q).order ∧ (s.entry q j).queuedWriteOn n = true) ∨ (s.region n).release = some j)
      (by
        rintro (⟨-, hw⟩ | hr)
        · simp only [Entry.queuedWriteOn, Bool.and_eq_true, beq_iff_eq] at hw
          rw [hw.1.1]; decide
        · exact h j hr)
    split
    · simpa using this
    · exact this
  · exact ⟨rfl, rfl, rfl⟩

/-- A loss that is no port reset tells the holder first (R42, R45). -/
theorem State.leaseLoss_told (s : State) (n : RegionId) (p : Port) :
    s.leaseLoss n p false =
      if (s.leaseLost n p).writeInProgress p n then
        (s.leaseLost n p).setRegion n { ((s.leaseLost n p).region n).leaseEnded with state := .closing }
      else (s.leaseLost n p).leaseEnd n p none := rfl

/-- After the holder has been told, the loss of a lease answers a claim of the region alone (R38, R42 item 5). -/
theorem State.entry_leaseLoss_of_unclaimed {s : State} {n : RegionId} {p q : Port} {j : Slot}
    (h : ∀ c ∈ (s.region n).queue, ¬ (q = c.port ∧ j = c.slot)) :
    (s.leaseLoss n p false).entry q j = (s.leaseLost n p).entry q j := by
  rw [State.leaseLoss_told]
  split
  · rfl
  · refine State.entry_leaseEnd_of_other (by simp) ?_
    rw [State.region_leaseLost]
    exact h

/-- The ex-holder hears of its loss, and of nothing else (R37, R42 item 3). -/
theorem State.noticeList_leaseLoss_ex (s : State) (n : RegionId) (p : Port) :
    (s.leaseLoss n p false).noticeList p =
      postTo ⟨n, .leaseLost, (s.region n).generation⟩ (s.noticeList p) := by
  have h := s.noticeList_leaseLost n p p
  rw [if_pos rfl] at h
  rw [State.leaseLoss_told]
  split
  · exact h
  · rw [State.noticeList_leaseEnd_ex]
    exact h

/-! ### An accepted SET_RIGHTS -/

/-- A region in service, named by the administrator with rights of their encoding, passes the checks of SET_RIGHTS (R24). -/
theorem State.rightsCheck_ok {s : State} {p : Port} {b rr wr : Byte} {n : RegionId} {r w : PortSet}
    (ha : s.admin = some p) (hb : regionOf b = some n) (hf : (s.region n).state ≠ .free)
    (hr : (s.region n).state ≠ .retiring) (hrr : rightsOf rr = some r) (hwr : rightsOf wr = some w) :
    s.rightsCheck p b rr wr = .ok (n, r, w) := by
  simp [State.rightsCheck, State.notAdmin, ha, hrr, hwr, State.inService, State.named_some hb hf, hr, Except.map]

/-- The rights of a region are replaced and the Table Epoch is counted up (R24 item 1). -/
def State.withRights (s : State) (n : RegionId) (rr wr : PortSet) : State :=
  { s.setRegion n { s.region n with readRights := rr, writeRights := wr } with epoch := s.epoch + 1#16 }

/-- A region under new rights, with the claims that keep their write right (R24 items 1 and 2). -/
def Region.underRights (r : Region) (rr wr : PortSet) : Region :=
  { r with readRights := rr, writeRights := wr, queue := r.queue.filter fun c => wr.has c.port }

/-- The state after items 1 and 2 of R24. -/
def State.rightsReplaced (s : State) (n : RegionId) (rr wr : PortSet) : State :=
  (s.withRights n rr wr).dropRightless n wr

theorem State.rightsReplaced_work (s : State) (n : RegionId) (rr wr : PortSet) :
    State.TableWork { s with epoch := s.epoch + 1#16 } (s.rightsReplaced n rr wr) :=
  State.TableWork.trans (t := s.withRights n rr wr) rfl ((s.withRights n rr wr).dropRightless_work n wr)

theorem State.region_rightsReplaced (s : State) (n m : RegionId) (rr wr : PortSet) :
    (s.rightsReplaced n rr wr).region m = if m = n then (s.region n).underRights rr wr else s.region m := by
  have h : ∀ i, (s.withRights n rr wr).region i = if i = n then
      { s.region n with readRights := rr, writeRights := wr } else s.region i := fun i => s.region_setRegion n i _
  unfold State.rightsReplaced
  rw [State.region_dropRightless, h n, if_pos rfl, h m]
  split <;> rfl

theorem State.entry_rightsReplaced (s : State) (n : RegionId) (rr wr : PortSet) (q : Port) (j : Slot) :
    (s.rightsReplaced n rr wr).entry q j =
      if wr.has q = false ∧ ((s.region n).claimOf q).map ClaimRecord.slot = some j then
        (s.entry q j).answered .noRight .none none else s.entry q j := by
  unfold State.rightsReplaced
  rw [State.entry_dropRightless]
  have h : (s.withRights n rr wr).region n = { s.region n with readRights := rr, writeRights := wr } :=
    s.region_setRegion_same n _
  rw [h]
  rfl

/-- Items 1 and 2 of R24 leave what is no claim for the region. -/
theorem State.entry_rightsReplaced_of_unclaimed {s : State} {n : RegionId} (rr wr : PortSet) {q : Port} {j : Slot}
    (h : ∀ c ∈ (s.region n).queue, ¬ (q = c.port ∧ j = c.slot)) :
    (s.rightsReplaced n rr wr).entry q j = s.entry q j := by
  rw [State.entry_rightsReplaced, if_neg]
  rintro ⟨-, hc⟩
  obtain ⟨c, hc, hj⟩ := Option.map_eq_some_iff.mp hc
  exact h c (List.mem_of_find?_eq_some hc) ⟨(Region.claimOf_port hc).symm, hj.symm⟩

theorem State.order_rightsReplaced (s : State) (n : RegionId) (rr wr : PortSet) (q : Port) :
    ((s.rightsReplaced n rr wr).exch q).order = (s.exch q).order :=
  (s.withRights n rr wr).order_dropRightless n wr q

theorem State.noticeList_rightsReplaced (s : State) (n : RegionId) (rr wr : PortSet) (q : Port) :
    (s.rightsReplaced n rr wr).noticeList q = s.noticeList q :=
  (s.withRights n rr wr).noticeList_dropRightless n wr q

/-- Item 3 of R24: a holder without write right loses its lease, any other keeps it. -/
def State.revoked (s : State) (n : RegionId) (wr : PortSet) : State :=
  match (s.region n).holder with
  | none => s
  | some q => if wr.has q then s else s.leaseLoss n q false

theorem State.revoked_of_right {s : State} {n : RegionId} {wr : PortSet}
    (h : ∀ q, (s.region n).holder = some q → wr.has q = true) : s.revoked n wr = s := by
  unfold State.revoked
  split
  · rfl
  · rename_i q hq; rw [if_pos (h q hq)]

theorem State.revoked_of_holder {s : State} {n : RegionId} {wr : PortSet} {q : Port}
    (hq : (s.region n).holder = some q) (h : wr.has q = false) : s.revoked n wr = s.leaseLoss n q false := by
  unfold State.revoked
  rw [hq]
  simp [h]

theorem State.revoked_work (s : State) (n : RegionId) (wr : PortSet) : s.TableWork (s.revoked n wr) := by
  unfold State.revoked
  split
  · exact .refl s
  · split
    · exact .refl s
    · exact s.leaseLoss_work n _ false

theorem State.rightsSet_eq (s : State) (p : Port) (k : Slot) (n : RegionId) (rr wr : PortSet) :
    s.rightsSet p k n rr wr = ((s.withRights n rr wr).regroup ((s.rightsReplaced n rr wr).revoked n wr)).answer p k .done
      (.epoch (s.epoch + 1#16)) := by
  have h : ((s.rightsReplaced n rr wr).revoked n wr).epoch = s.epoch + 1#16 := by
    rw [(State.revoked_work _ n wr).epoch, (s.rightsReplaced_work n rr wr).epoch]
  conv_rhs => rw [← h]
  rfl

theorem State.rightsSet_work (s : State) (p : Port) (k : Slot) (n : RegionId) (rr wr : PortSet) :
    State.TableWork { s with epoch := s.epoch + 1#16 } (s.rightsSet p k n rr wr) := by
  rw [State.rightsSet_eq]
  have h := (s.rightsReplaced_work n rr wr).trans (State.revoked_work _ n wr)
  refine State.TableWork.trans ?_ (State.answer_work _ p k _ _ _)
  unfold State.TableWork at h ⊢
  rw [h]
  rfl

/-- The entries after an accepted SET_RIGHTS (R24). -/
theorem State.entry_rightsSet (s : State) (p q : Port) (k j : Slot) (n : RegionId) (rr wr : PortSet) :
    (s.rightsSet p k n rr wr).entry q j =
      if q = p ∧ j = k then
        (((s.rightsReplaced n rr wr).revoked n wr).entry q j).answered .done (.epoch (s.epoch + 1#16)) none
      else ((s.rightsReplaced n rr wr).revoked n wr).entry q j := by
  rw [State.rightsSet_eq, State.entry_answer, State.entry_regroup]

theorem State.noticeList_rightsSet (s : State) (p q : Port) (k : Slot) (n : RegionId) (rr wr : PortSet) :
    (s.rightsSet p k n rr wr).noticeList q = ((s.rightsReplaced n rr wr).revoked n wr).noticeList q := by
  rw [State.rightsSet_eq]; rfl

theorem State.region_rightsSet (s : State) (p : Port) (k : Slot) (n m : RegionId) (rr wr : PortSet) :
    (s.rightsSet p k n rr wr).region m = ((s.rightsReplaced n rr wr).revoked n wr).region m := by
  rw [State.rightsSet_eq]; rfl

/-- A SET_RIGHTS leaves the other regions. -/
theorem State.region_rightsSet_other (s : State) (p : Port) (k : Slot) {n m : RegionId} (rr wr : PortSet) (h : m ≠ n) :
    (s.rightsSet p k n rr wr).region m = s.region m := by
  rw [State.region_rightsSet]
  have hx : (s.rightsReplaced n rr wr).region m = s.region m := by rw [State.region_rightsReplaced, if_neg h]
  unfold State.revoked
  split
  · exact hx
  · split
    · exact hx
    · rw [State.region_leaseLoss, if_neg h, hx]

/-- The region of a SET_RIGHTS whose holder keeps its right (R24). -/
theorem State.region_rightsSet_of_right {s : State} (p : Port) (k : Slot) {n : RegionId} (rr : PortSet) {wr : PortSet}
    (h : ∀ q, (s.region n).holder = some q → wr.has q = true) :
    (s.rightsSet p k n rr wr).region n = (s.region n).underRights rr wr := by
  have hx := s.region_rightsReplaced n n rr wr
  rw [if_pos rfl] at hx
  rw [State.region_rightsSet, State.revoked_of_right (by rw [hx]; exact h), hx]

/-- The region of a SET_RIGHTS that revokes its holder: CLOSING or handed over (R24, R42, R44). -/
theorem State.region_rightsSet_of_holder {s : State} (p : Port) (k : Slot) {n : RegionId} (rr : PortSet) {wr : PortSet}
    {q : Port} (hq : (s.region n).holder = some q) (h : wr.has q = false) :
    (s.rightsSet p k n rr wr).region n =
      if ((s.rightsReplaced n rr wr).leaseLost n q).writeInProgress q n then
        { ((s.region n).underRights rr wr).leaseEnded with state := .closing }
      else ((s.region n).underRights rr wr).leaseOver s.settings := by
  have hx := s.region_rightsReplaced n n rr wr
  rw [if_pos rfl] at hx
  rw [State.region_rightsSet, State.revoked_of_holder (by rw [hx]; exact hq) h, State.region_leaseLoss, if_pos rfl, hx,
    (s.rightsReplaced_work n rr wr).settings]
  rfl

/-! ### The entries of a revocation -/

/-- An entry that does not wait, or waits with another kind, is no claim for a region (R143). -/
theorem State.WaitsReferred.unclaimed {s : State} (w : s.WaitsReferred) (n : RegionId) {q : Port} {j : Slot}
    (h : (s.entry q j).state ≠ .waiting ∨ (s.entry q j).kind ≠ some 0x11#8) :
    ∀ c ∈ (s.region n).queue, ¬ (q = c.port ∧ j = c.slot) := by
  rintro c hc ⟨rfl, rfl⟩
  obtain ⟨⟨hs, hk⟩, -⟩ := w.claims n c hc
  exact h.elim (fun h => h hs) fun h => h hk

/-- A QUEUED write of the ex-holder and its waiting RELEASE are answered LEASE_LOST (R42 item 1, R44). -/
theorem State.entry_leaseLost_answered {s : State} {n : RegionId} {p : Port} {j : Slot}
    (h : (j ∈ (s.exch p).order ∧ (s.entry p j).queuedWriteOn n = true) ∨ (s.region n).release = some j)
    (ha : (s.entry p j).state ≠ .active) :
    (s.leaseLost n p).entry p j = (s.entry p j).answered .leaseLost .none none := by
  have range : (s.entry p j).activeRangeOn n = false := by simp [Entry.activeRangeOn, ha]
  rw [State.entry_leaseLost, if_pos rfl, if_neg (by simp [range]), if_pos h]

/-- An ACTIVE erase range of the ex-holder is told to stop (R42 item 2). -/
theorem State.entry_leaseLost_range {s : State} {n : RegionId} {p : Port} {j : Slot} (ho : j ∈ (s.exch p).order)
    (ha : (s.entry p j).activeRangeOn n = true) (hr : (s.region n).release ≠ some j) :
    (s.leaseLost n p).entry p j = (s.entry p j).stopRequested .leaseLost := by
  have queued : (s.entry p j).queuedWriteOn n = false := by
    simp only [Entry.activeRangeOn, Bool.and_eq_true, beq_iff_eq] at ha
    simp [Entry.queuedWriteOn, ha.1.1]
  rw [State.entry_leaseLost, if_pos rfl, if_pos ⟨ho, ha⟩, if_neg (by simp [queued, hr])]

/-- A revocation does to an entry that is no claim for the region what the loss of the lease does (R24, R44). -/
theorem State.entry_revoked_of_holder {s : State} {n : RegionId} (rr : PortSet) {wr : PortSet} {h q : Port} {j : Slot}
    (hh : (s.region n).holder = some h) (hw : wr.has h = false)
    (hc : ∀ c ∈ (s.region n).queue, ¬ (q = c.port ∧ j = c.slot)) :
    ((s.rightsReplaced n rr wr).revoked n wr).entry q j = (s.leaseLost n h).entry q j := by
  have hx := s.region_rightsReplaced n n rr wr
  rw [if_pos rfl] at hx
  rw [State.revoked_of_holder (by rw [hx]; exact hh) hw, State.entry_leaseLoss_of_unclaimed, State.entry_leaseLost,
    State.entry_leaseLost, State.order_rightsReplaced, State.entry_rightsReplaced_of_unclaimed rr wr hc, hx]
  · rfl
  · rw [hx]
    exact fun c hm => hc c (List.mem_of_mem_filter hm)

/-- A SET_RIGHTS leaves an entry that is neither a claim for the region nor work of its holder. -/
theorem State.entry_revoked_of_other {s : State} {n : RegionId} (rr wr : PortSet) {q : Port} {j : Slot}
    (hc : ∀ c ∈ (s.region n).queue, ¬ (q = c.port ∧ j = c.slot)) (hw : (s.entry q j).queuedWriteOn n = false)
    (ha : (s.entry q j).activeRangeOn n = false)
    (hr : ¬ ((s.region n).holder = some q ∧ (s.region n).release = some j)) :
    ((s.rightsReplaced n rr wr).revoked n wr).entry q j = s.entry q j := by
  have hx := s.region_rightsReplaced n n rr wr
  rw [if_pos rfl] at hx
  by_cases h : ∀ q, (s.region n).holder = some q → wr.has q = true
  · rw [State.revoked_of_right (by rw [hx]; exact h), State.entry_rightsReplaced_of_unclaimed rr wr hc]
  · obtain ⟨p, h⟩ := not_forall.mp h
    obtain ⟨hp, hn⟩ := Classical.not_imp.mp h
    rw [State.entry_revoked_of_holder rr hp (by simpa using hn) hc, State.entry_leaseLost_of_other hw _ ha]
    rintro ⟨rfl, hj⟩
    exact hr ⟨hp, hj⟩

/-- A claim without write right is answered NO_RIGHT, and nothing that follows reaches it (R24 item 2). -/
theorem State.entry_revoked_of_claim {s : State} {n : RegionId} (rr : PortSet) {wr : PortSet}
    (form : (s.region n).WellFormed) {c : ClaimRecord} (hc : c ∈ (s.region n).queue) (hw : wr.has c.port = false) :
    ((s.rightsReplaced n rr wr).revoked n wr).entry c.port c.slot =
      (s.entry c.port c.slot).answered .noRight .none none := by
  have hx := s.region_rightsReplaced n n rr wr
  rw [if_pos rfl] at hx
  have he : (s.rightsReplaced n rr wr).entry c.port c.slot = (s.entry c.port c.slot).answered .noRight .none none := by
    rw [State.entry_rightsReplaced, Region.claimOf_of_mem form.queueOnce hc]
    exact if_pos ⟨hw, rfl⟩
  by_cases h : ∀ q, (s.region n).holder = some q → wr.has q = true
  · rw [State.revoked_of_right (by rw [hx]; exact h), he]
  · obtain ⟨p, h⟩ := not_forall.mp h
    obtain ⟨hp, hn⟩ := Classical.not_imp.mp h
    have apart : c.port ≠ p := form.holderApart p hp c hc
    rw [State.revoked_of_holder (by rw [hx]; exact hp) (by simpa using hn), State.entry_leaseLoss_of_unclaimed,
      State.entry_leaseLost, if_neg apart, he]
    rw [hx]
    rintro d hd ⟨hport, -⟩
    have := (List.mem_filter.mp hd).2
    rw [← hport, hw] at this
    cases this

/-- The answers of items 1 and 2 of R24 end no operation: claims wait. -/
theorem State.writeInProgress_rightsReplaced {s : State} (w : s.WaitsReferred) (n : RegionId) (rr wr : PortSet)
    (q : Port) (m : RegionId) : (s.rightsReplaced n rr wr).writeInProgress q m = s.writeInProgress q m := by
  refine State.writeInProgress_congr fun j => ?_
  rw [State.entry_rightsReplaced]
  split
  · rename_i h
    obtain ⟨c, hc, hj⟩ := Option.map_eq_some_iff.mp h.2
    have hs := (w.claims n c (List.mem_of_find?_eq_some hc)).1.1
    rw [Region.claimOf_port hc, hj] at hs
    exact ⟨Entry.answered_running (by rw [hs]; decide) _ _ _, Entry.answered_region .., Entry.answered_request ..⟩
  · exact ⟨rfl, rfl, rfl⟩

/-- Whether a revoked region closes is decided by the writes in progress before the SET_RIGHTS (R42 item 5, R44). -/
theorem State.writeInProgress_revoked {s : State} (w : s.WaitsReferred) (n : RegionId) (rr wr : PortSet) {q : Port}
    (hq : (s.region n).holder = some q) (m : RegionId) :
    ((s.rightsReplaced n rr wr).leaseLost n q).writeInProgress q m = s.writeInProgress q m := by
  rw [State.writeInProgress_leaseLost, State.writeInProgress_rightsReplaced w]
  intro j hj
  rw [State.region_rightsReplaced, if_pos rfl] at hj
  obtain ⟨p, hp, ⟨hs, hk⟩, -⟩ := w.releases n j hj
  cases hq.symm.trans hp
  rw [State.entry_rightsReplaced_of_unclaimed rr wr (w.unclaimed n (.inr (by rw [hk]; decide))), hs]
  decide

/-- The SET_RIGHTS itself is answered DONE with the new Table Epoch (R24). -/
theorem State.entry_rightsSet_self {s : State} {p : Port} {k : Slot} (n : RegionId) (rr wr : PortSet)
    (w : s.WaitsReferred) (hs : (s.entry p k).state = .waiting) (hk : (s.entry p k).kind = some 0x33#8) :
    (s.rightsSet p k n rr wr).entry p k = (s.entry p k).answered .done (.epoch (s.epoch + 1#16)) none := by
  rw [State.entry_rightsSet, if_pos ⟨rfl, rfl⟩, State.entry_revoked_of_other]
  · exact w.unclaimed n (.inr (by rw [hk]; decide))
  · simp [Entry.queuedWriteOn, hs]
  · simp [Entry.activeRangeOn, hs]
  · rintro ⟨hh, hj⟩
    obtain ⟨q, hq, ⟨-, hr⟩, -⟩ := w.releases n k hj
    cases hh.symm.trans hq
    rw [hk] at hr
    exact absurd hr (by decide)

/-- Without a revocation an entry that does not wait stays (R24). -/
theorem State.entry_rightsSet_of_right {s : State} {p q : Port} {k j : Slot} {n : RegionId} (rr : PortSet)
    {wr : PortSet} (w : s.WaitsReferred) (h : ∀ q, (s.region n).holder = some q → wr.has q = true)
    (hk : ¬ (q = p ∧ j = k)) (hs : (s.entry q j).state ≠ .waiting) :
    (s.rightsSet p k n rr wr).entry q j = s.entry q j := by
  have hx := s.region_rightsReplaced n n rr wr
  rw [if_pos rfl] at hx
  rw [State.entry_rightsSet, if_neg hk, State.revoked_of_right (by rw [hx]; exact h),
    State.entry_rightsReplaced_of_unclaimed rr wr (w.unclaimed n (.inl hs))]

/-- A revocation tells the ex-holder's entries of the loss (R24, R44). -/
theorem State.entry_rightsSet_of_holder {s : State} {p h q : Port} {k j : Slot} {n : RegionId} (rr : PortSet)
    {wr : PortSet} (w : s.WaitsReferred) (hh : (s.region n).holder = some h) (hw : wr.has h = false)
    (hk : ¬ (q = p ∧ j = k)) (hs : (s.entry q j).state ≠ .waiting ∨ (s.entry q j).kind ≠ some 0x11#8) :
    (s.rightsSet p k n rr wr).entry q j = (s.leaseLost n h).entry q j := by
  rw [State.entry_rightsSet, if_neg hk, State.entry_revoked_of_holder rr hh hw (w.unclaimed n hs)]

/-- What no clause of R24 reaches stays: neither the SET_RIGHTS itself, nor WAITING, nor of the region. -/
theorem State.entry_rightsSet_of_other {s : State} {p q : Port} {k j : Slot} {n : RegionId} (rr wr : PortSet)
    (w : s.WaitsReferred) (hk : ¬ (q = p ∧ j = k)) (hs : (s.entry q j).state ≠ .waiting)
    (hn : (s.entry q j).region ≠ some n) : (s.rightsSet p k n rr wr).entry q j = s.entry q j := by
  rw [State.entry_rightsSet, if_neg hk, State.entry_revoked_of_other _ _ (w.unclaimed n (.inl hs))]
  · simp [Entry.queuedWriteOn, hn]
  · simp [Entry.activeRangeOn, hn]
  · rintro ⟨hh, hj⟩
    obtain ⟨h, hp, ⟨hw, -⟩, -⟩ := w.releases n j hj
    cases hh.symm.trans hp
    exact hs hw

/-- The notices of a SET_RIGHTS that revokes nobody: none (R24). -/
theorem State.noticeList_rightsSet_of_right {s : State} (p q : Port) (k : Slot) {n : RegionId} (rr : PortSet)
    {wr : PortSet} (h : ∀ q, (s.region n).holder = some q → wr.has q = true) :
    (s.rightsSet p k n rr wr).noticeList q = s.noticeList q := by
  have hx := s.region_rightsReplaced n n rr wr
  rw [if_pos rfl] at hx
  rw [State.noticeList_rightsSet, State.revoked_of_right (by rw [hx]; exact h), State.noticeList_rightsReplaced]

/-- The revoked holder hears LEASE_LOST (R24, R42 item 3). -/
theorem State.noticeList_rightsSet_of_holder {s : State} (p : Port) {q : Port} (k : Slot) {n : RegionId} (rr : PortSet)
    {wr : PortSet} (hq : (s.region n).holder = some q) (hw : wr.has q = false) :
    (s.rightsSet p k n rr wr).noticeList q =
      postTo ⟨n, .leaseLost, (s.region n).generation⟩ (s.noticeList q) := by
  have hx := s.region_rightsReplaced n n rr wr
  rw [if_pos rfl] at hx
  rw [State.noticeList_rightsSet, State.revoked_of_holder (by rw [hx]; exact hq) hw, State.noticeList_leaseLoss_ex,
    hx, State.noticeList_rightsReplaced]
  rfl

/-- An open entry that is answered is ANSWERED with the result (R144). -/
theorem Entry.answered_result {e : Entry} (h : e.state.open = true) (r : Result) (v : Values)
    (b : Option (List Byte)) : (e.answered r v b).state = .answered ∧ (e.answered r v b).result = some r := by
  rw [Entry.answered_of_open h]
  exact ⟨rfl, rfl⟩

/-- Settles O30: each entry is a claim for the region, work of its holder, the SET_RIGHTS itself, or none of them. -/
theorem setRightsReplacesAndRevokes : Obligations.SetRightsReplacesAndRevokes := by
  intro s p tag b rr wr k n r w x a hadmin hb hf hret hrr hwr form waits eform hx
  obtain ⟨u, hu⟩ : ∃ u, u = s.admitted p tag (.setRights b rr wr) k := ⟨_, rfl⟩
  have hexec : exec (.setRights p tag b rr wr) s = .next (u.rightsSet p k n r w) := by
    have check : u.rightsCheck p b rr wr = .ok (n, r, w) :=
      hu ▸ State.rightsCheck_ok hadmin hb hf hret hrr hwr
    rw [exec_admitted (q := .setRights b rr wr) rfl a, ← hu]
    simp only [Request.act]
    rw [State.checked_ok check]
  have wu : u.WaitsReferred := hu ▸ a.waitsReferred waits
  have region : ∀ m, u.region m = s.region m := fun m => by rw [hu]; rfl
  have notices : ∀ q, u.noticeList q = s.noticeList q := fun q => by rw [hu]; rfl
  have epoch : u.epoch = s.epoch := by rw [hu]; rfl
  have old : ∀ {q j}, (s.entry q j).state ≠ .vacant → u.entry q j = s.entry q j := fun h => hu ▸ a.entry_admitted h
  have order : ∀ {q j}, (s.entry q j).state ≠ .vacant → j ∈ (u.exch q).order := fun h => hu ▸ a.mem_order eform h
  have stands : ∀ {q j}, (q, j) ≠ (p, k) → ¬ (q = p ∧ j = k) := fun hne ⟨h, g⟩ => hne (by rw [h, g])
  have same : ∀ {q j}, (q, j) ≠ (p, k) → u.entry q j = s.entry q j := fun h => by
    rw [hu, State.entry_admitted, if_neg (stands h)]
  have self : u.entry p k = _ := hu ▸ State.entry_admitted_same s p tag (.setRights b rr wr) k
  have answer := State.entry_rightsSet_self n r w wu (by rw [self]) (by rw [self]; rfl)
  rw [self, Entry.answered_of_open rfl, epoch] at answer
  refine ⟨_, hexec, ?_, fun m hm => ?_, fun hright => ⟨?_, fun q => ?_, fun q j hne hnw => ?_⟩,
    fun q hq hw => ⟨?_, fun j hj => ?_, fun j hj => ?_, fun j hj hstop => ?_, ?_⟩, fun c hc hw => ?_,
    by rw [answer], by rw [answer], by rw [answer]; rfl, fun q j hne hnw hn => ?_, ?_⟩
  · rw [(State.rightsSet_work _ p k n r w).epoch, epoch]
  · rw [State.region_rightsSet_other u p k r w hm, region]
  · rw [State.region_rightsSet_of_right p k r (by rw [region]; exact hright), region, hx]; rfl
  · rw [State.noticeList_rightsSet_of_right p q k r (by rw [region]; exact hright), notices]
  · rw [State.entry_rightsSet_of_right r wu (by rw [region]; exact hright) (stands hne) (by rw [same hne]; exact hnw),
      same hne]
  · rw [State.region_rightsSet_of_holder p k r (by rw [region]; exact hq) hw,
      State.writeInProgress_revoked wu n r w (by rw [region]; exact hq), region, hx, hu, a.writeInProgress]
    rfl
  · have hs : (s.entry q j).state = .queued := by
      simp only [Entry.queuedWriteOn, Bool.and_eq_true, beq_iff_eq] at hj
      exact hj.1.1
    have hv : (s.entry q j).state ≠ .vacant := by rw [hs]; decide
    rw [State.entry_rightsSet_of_holder r wu (by rw [region]; exact hq) hw (a.other hv)
      (.inl (by rw [old hv, hs]; decide)), State.entry_leaseLost_answered (.inl ⟨order hv, by rw [old hv]; exact hj⟩)
      (by rw [old hv, hs]; decide), old hv]
    exact Entry.answered_result (by rw [hs]; rfl) _ _ _
  · obtain ⟨h, hh, ⟨hs, hk⟩, -⟩ := waits.releases n j hj
    cases hq.symm.trans hh
    have hv : (s.entry q j).state ≠ .vacant := by rw [hs]; decide
    rw [State.entry_rightsSet_of_holder r wu (by rw [region]; exact hq) hw (a.other hv)
      (.inr (by rw [old hv, hk]; decide)), State.entry_leaseLost_answered (.inr (by rw [region]; exact hj))
      (by rw [old hv, hs]; decide), old hv]
    exact Entry.answered_result (by rw [hs]; rfl) _ _ _
  · have hs : (s.entry q j).state = .active := by
      simp only [Entry.activeRangeOn, Bool.and_eq_true, beq_iff_eq] at hj
      exact hj.1.1
    have hv : (s.entry q j).state ≠ .vacant := by rw [hs]; decide
    have hr : (u.region n).release ≠ some j := by
      intro h
      obtain ⟨h, hh, ⟨hw, -⟩, -⟩ := waits.releases n j (region n ▸ h)
      cases hq.symm.trans hh
      rw [hs] at hw
      cases hw
    rw [State.entry_rightsSet_of_holder r wu (by rw [region]; exact hq) hw (a.other hv)
      (.inl (by rw [old hv, hs]; decide)), State.entry_leaseLost_range (order hv) (by rw [old hv]; exact hj) hr, old hv,
      Entry.stopRequested_of_active hs hstop]
  · rw [State.noticeList_rightsSet_of_holder p k r (by rw [region]; exact hq) hw, region, notices]
  · have hs := (waits.claims n c hc).1.1
    have hv : (s.entry c.port c.slot).state ≠ .vacant := by rw [hs]; decide
    rw [State.entry_rightsSet, if_neg (a.other hv),
      State.entry_revoked_of_claim r (by rw [region]; exact form) (by rw [region]; exact hc) hw, old hv]
    exact Entry.answered_result (by rw [hs]; rfl) _ _ _
  · rw [State.entry_rightsSet_of_other r w wu (stands hne) (by rw [same hne]; exact hnw) (by rw [same hne]; exact hn),
      same hne]
  · rw [show u.rightsSet p k n r w = _ from State.rightsSet_work _ p k n r w, hu]
    rfl

end Sys2Proof.Machine
end

section
/-! What a step does to the leases (R5, R6, R25, R28, R32), and O56: every command keeps every region record well formed and
every port within its lease limit. -/

namespace Sys2Proof.Machine

/-! ### What a port has of the regions -/

/-- Two counts over one list are the sum of what each place adds. -/
theorem countP_add_countP {α : Type} (l : List α) (f g : α → Bool) :
    l.countP f + l.countP g = (l.map fun a => (if f a then 1 else 0) + if g a then 1 else 0).sum := by
  induction l with
  | nil => rfl
  | cons a l ih =>
    simp only [List.countP_cons, List.map_cons, List.sum_cons, ← ih]
    omega

/-- What a port has is the sum of its shares of the regions (R28). -/
theorem State.leaseCount_eq_sum (s : State) (p : Port) : s.leaseCount p = ∑ n, (s.region n).share p := by
  unfold State.leaseCount
  rw [countP_add_countP, Fin.sum_univ_def]
  simp only [beq_iff_eq]
  rfl

/-- The leases of a state are in order: what every step keeps (R5, R6, R25, R28, R32). -/
structure State.LeasesFormed (s : State) : Prop where
  formed  : ∀ n, (s.region n).WellFormed
  limited : ∀ p, s.leaseCount p ≤ 4

/-- Region records that keep their form and no port's larger share of them keep the leases in order. -/
theorem State.LeasesFormed.of_keeps {s t : State} (h : s.LeasesFormed)
    (k : ∀ n, (s.region n).Keeps (t.region n)) : t.LeasesFormed where
  formed n := (k n (h.formed n)).1
  limited p := by
    refine le_trans ?_ (h.limited p)
    rw [State.leaseCount_eq_sum, State.leaseCount_eq_sum]
    exact Finset.sum_le_sum fun n _ => (k n (h.formed n)).2 p

theorem State.LeasesFormed.keeps {s t : State} (h : s.LeasesFormed) (k : s.Keeps t) : t.LeasesFormed :=
  h.of_keeps k.regions

theorem State.LeasesFormed.of_regions {s t : State} (h : s.LeasesFormed) (e : t.regions = s.regions) :
    t.LeasesFormed :=
  h.of_keeps fun n => by rw [State.region_of_regions e]; exact .refl _

theorem State.LeasesFormed.setRegion {s : State} (h : s.LeasesFormed) (n : RegionId) {r : Region}
    (k : (s.region n).Keeps r) : (s.setRegion n r).LeasesFormed :=
  h.keeps (s.setRegion_keeps n r k)

/-- A port below its limit may get one region or one place in a queue more (R28, R29). -/
theorem State.LeasesFormed.setRegion_more {s : State} (h : s.LeasesFormed) (n : RegionId) {r : Region} {p : Port}
    (w : r.WellFormed) (hs : ∀ q, r.share q ≤ (s.region n).share q + if q = p then 1 else 0)
    (hp : s.leaseCount p < 4) : (s.setRegion n r).LeasesFormed where
  formed m := by
    rw [State.region_setRegion]
    split
    · exact w
    · exact h.formed m
  limited q := by
    have each : ∀ m, ((s.setRegion n r).region m).share q ≤
        (s.region m).share q + if m = n then (if q = p then 1 else 0) else 0 := by
      intro m
      rw [State.region_setRegion]
      by_cases hm : m = n
      · subst hm; simpa using hs q
      · simp [hm]
    have total : (s.setRegion n r).leaseCount q ≤ s.leaseCount q + if q = p then 1 else 0 := by
      rw [State.leaseCount_eq_sum, State.leaseCount_eq_sum]
      refine (Finset.sum_le_sum fun m _ => each m).trans ?_
      rw [Finset.sum_add_distrib, Finset.sum_ite_eq' Finset.univ n]
      simp
    have hq := h.limited q
    by_cases e : q = p
    · subst e; simp only [if_true] at total; omega
    · simp only [e, if_false] at total; omega

/-! ### Region records -/

/-- A record with no lease and no claim, in a state without a lease, is well formed, and no port has a share of it. -/
theorem Region.keeps_unleased (r : Region) {q : Region} (hs : (q.state == .leased || q.state == .releasing) = false)
    (hh : q.holder = none) (hg : q.granted = none) (hr : q.remaining = 0) (hq : q.queue = []) : r.Keeps q := by
  refine fun _ => ⟨⟨by rw [hh, hs]; rfl, by rw [hg, hh]; rfl, fun _ => hr, fun _ => hq, ?_, ?_, ?_, ?_, ?_⟩, fun p => ?_⟩
  · simp [hq]
  · simp [hq]
  · simp [hq]
  · simp [hh]
  · simp [hh]
  · simp [Region.share, hh, hq]

/-- The tick of a region record (R26). -/
theorem Region.msTick_keeps (r : Region) : r.Keeps r.msTick := by
  intro w
  have ports : r.msTick.queue.map ClaimRecord.port = r.queue.map ClaimRecord.port := by simp [Region.msTick]
  have mem : ∀ c ∈ r.msTick.queue, ∃ d ∈ r.queue, d.port = c.port := by
    intro c hc
    obtain ⟨d, hd, rfl⟩ := List.mem_map.mp hc
    exact ⟨d, hd, rfl⟩
  refine ⟨⟨w.holderWhen, w.grantedWhen, fun h => ?_, fun h => ?_, ?_, ?_, fun c hc => ?_, fun p hp c hc => ?_,
    w.holderRight⟩, fun p => ?_⟩
  · have h0 := w.noRemaining h
    simp [Region.msTick, h0]
  · have h0 := w.queueWhen h
    simp [Region.msTick, h0]
  · simpa [Region.msTick] using w.queueShort
  · rw [ports]; exact w.queueOnce
  · obtain ⟨d, hd, e⟩ := mem c hc
    rw [← e]; exact w.queueRights d hd
  · obtain ⟨d, hd, e⟩ := mem c hc
    rw [← e]; exact w.holderApart p hp d hd
  · simp [Region.share, Region.msTick, List.any_map, Function.comp_def]

/-- The record of an OPEN region after a grant to a port with write right (R30). -/
theorem Region.granted_form {r : Region} (w : r.WellFormed) (ho : r.state = .opened) {p : Port}
    (hw : r.writeRights.has p = true) (t : Nat) :
    ({ r with state := .leased, holder := some p, granted := some t, remaining := t } : Region).WellFormed := by
  have hq := w.queueWhen (.inr (.inl ho))
  refine ⟨rfl, rfl, fun h => by simp at h, fun _ => hq, w.queueShort, w.queueOnce, w.queueRights, fun q _ c hc => ?_,
    fun q e => ?_⟩
  · rw [show ({ r with state := .leased, holder := some p, granted := some t, remaining := t } : Region).queue = []
      from hq] at hc
    cases hc
  · cases e; exact hw

/-- A claim record joins the queue of a region that is neither FREE, OPEN nor RETIRING (R31). -/
theorem Region.queued_form {r : Region} (w : r.WellFormed) {c : ClaimRecord} (hf : r.state ≠ .free)
    (ho : r.state ≠ .opened) (hr : r.state ≠ .retiring) (hs : r.queue.length < Config.queueLimit)
    (hw : r.writeRights.has c.port = true) (hh : r.holder ≠ some c.port)
    (hn : r.queue.any (fun d => d.port == c.port) = false) :
    ({ r with queue := r.queue ++ [c] } : Region).WellFormed := by
  have fresh : ∀ d ∈ r.queue, d.port ≠ c.port := fun d hd => by simpa using List.any_eq_false.mp hn d hd
  refine ⟨w.holderWhen, w.grantedWhen, w.noRemaining, ?_, ?_, ?_, ?_, ?_, w.holderRight⟩
  · rintro (h | h | h)
    · exact absurd h hf
    · exact absurd h ho
    · exact absurd h hr
  · rw [List.length_append]
    exact hs
  · rw [List.map_append]
    refine List.nodup_append.mpr ⟨w.queueOnce, List.nodup_singleton _, ?_⟩
    intro q ha o hb
    obtain ⟨d, hd, rfl⟩ := List.mem_map.mp ha
    rw [List.map_singleton, List.mem_singleton] at hb
    subst hb
    exact fresh d hd
  · intro d hd
    obtain hd | hd := List.mem_append.mp hd
    · exact w.queueRights d hd
    · rw [List.mem_singleton] at hd; subst hd; exact hw
  · intro p hp d hd
    obtain hd | hd := List.mem_append.mp hd
    · exact w.holderApart p hp d hd
    · rw [List.mem_singleton] at hd
      subst hd
      exact fun e => hh (e ▸ hp)

/-- A grant adds one to the share of the port it is for (R28, R30). -/
theorem Region.granted_share {r : Region} (hh : r.holder = none) (p q : Port) (t : Nat) :
    ({ r with state := .leased, holder := some p, granted := some t, remaining := t } : Region).share q ≤
      r.share q + if q = p then 1 else 0 := by
  simp only [Region.share, hh, Option.some.injEq, eq_comm]
  split
  · simp [Nat.add_comm]
  · simp

/-- A claim record adds one to the share of its port (R28, R31). -/
theorem Region.queued_share (r : Region) (c : ClaimRecord) (q : Port) :
    ({ r with queue := r.queue ++ [c] } : Region).share q ≤ r.share q + if q = c.port then 1 else 0 := by
  simp only [Region.share, List.any_append, List.any_cons, List.any_nil, Bool.or_false, Bool.or_eq_true, beq_iff_eq]
  by_cases h : q = c.port
  · subst h
    simp
  · have h' : ¬ c.port = q := fun e => h e.symm
    simp [h, h']

/-- A lease that is renewed (R35). -/
theorem Region.renewed_keeps {r : Region} {p : Port} (h : r.holder = some p) (t : Nat) :
    r.Keeps { r with granted := some t, remaining := t } := by
  intro w
  refine ⟨⟨w.holderWhen, by rw [h]; rfl, fun e => ?_, w.queueWhen, w.queueShort, w.queueOnce, w.queueRights,
    w.holderApart, w.holderRight⟩, fun _ => le_rfl⟩
  rw [show r.holder = none from e] at h
  cases h

/-- A lease whose RELEASE waits for its outstanding work (R39). -/
theorem Region.releasing_keeps {r : Region} (h : r.state = .leased) (k : Slot) (out : List Slot) :
    r.Keeps { r with state := .releasing, release := some k, outstanding := out } := by
  intro w
  refine ⟨⟨?_, w.grantedWhen, w.noRemaining, ?_, w.queueShort, w.queueOnce, w.queueRights, w.holderApart,
    w.holderRight⟩, fun _ => le_rfl⟩
  · have := w.holderWhen
    rw [h] at this
    exact this
  · rintro (e | e | e) <;> cases e

/-- What a port reset removes from a record before the leases end (R10, R46). -/
theorem Region.portReset_keeps (r : Region) (p : Port) : r.Keeps (r.portReset p) :=
  (r.withoutClaim_keeps p).trans (Region.keeps_of_same rfl rfl rfl rfl rfl rfl)

/-! ### New rights (R24) -/

/-- New rights of a region whose holder keeps its write right. -/
theorem Region.underRights_keeps {r : Region} (rr : PortSet) {wr : PortSet}
    (h : ∀ q, r.holder = some q → wr.has q = true) : r.Keeps (r.underRights rr wr) := by
  intro w
  have sub : List.Sublist (r.underRights rr wr).queue r.queue := List.filter_sublist
  refine ⟨⟨w.holderWhen, w.grantedWhen, w.noRemaining, fun hs => ?_, sub.length_le.trans w.queueShort,
    w.queueOnce.sublist (sub.map _), fun c hc => (List.mem_filter.mp hc).2,
    fun q hq c hc => w.holderApart q hq c (sub.subset hc), h⟩, fun q => ?_⟩
  · exact List.eq_nil_of_sublist_nil (w.queueWhen hs ▸ sub)
  · refine Nat.add_le_add le_rfl ?_
    split
    · rename_i ha
      obtain ⟨c, hc, e⟩ := List.any_eq_true.mp ha
      rw [if_pos (List.any_eq_true.mpr ⟨c, sub.subset hc, e⟩)]
    · exact Nat.zero_le _

/-- New rights of a region whose lease has ended: it closes, and in this form it can be handed over. -/
theorem Region.revoked_keeps (r : Region) (rr wr : PortSet) :
    r.Keeps { (r.underRights rr wr).leaseEnded with state := .closing } :=
  r.closing_keeps.trans (Region.underRights_keeps (r := { r.leaseEnded with state := .closing }) rr
    (fun q h => by cases h))

/-- A lease that ends with nobody waiting leaves the region OPEN (R37, R38). -/
theorem Region.leaseOver_nil {r : Region} (h : r.queue = []) (x : Settings) :
    r.leaseOver x = { r.leaseEnded with generation := r.nextGeneration, dirty := false, state := .opened } := by
  unfold Region.leaseOver
  rw [h]

/-- A lease that ends is handed over to the head of the claim queue (R37, R38). -/
theorem Region.leaseOver_cons {r : Region} {c : ClaimRecord} {rest : List ClaimRecord} (h : r.queue = c :: rest)
    (x : Settings) :
    r.leaseOver x = { r.leaseEnded with
      generation := r.nextGeneration, dirty := false, queue := rest, state := .leased, holder := some c.port,
      granted := some (grantedTerm x r.defaultTerm c.term), remaining := grantedTerm x r.defaultTerm c.term } := by
  unfold Region.leaseOver
  rw [h]

/-- A hand-over does not look at the lease that ends (R37, R38). -/
theorem Region.leaseOver_of_ended (x : Settings) (r : Region) :
    ({ r.leaseEnded with state := .closing } : Region).leaseOver x = r.leaseOver x := by
  cases h : r.queue with
  | nil => rw [Region.leaseOver_nil h, Region.leaseOver_nil (r := { r.leaseEnded with state := .closing }) h]; rfl
  | cons c rest =>
    rw [Region.leaseOver_cons h, Region.leaseOver_cons (r := { r.leaseEnded with state := .closing }) h]; rfl

theorem State.rightsSet_keeps (s : State) (p : Port) (k : Slot) (n : RegionId) (rr wr : PortSet) (m : RegionId) :
    (s.region m).Keeps ((s.rightsSet p k n rr wr).region m) := by
  by_cases hm : m = n
  · subst hm
    by_cases h : ∀ q, (s.region m).holder = some q → wr.has q = true
    · rw [State.region_rightsSet_of_right p k rr h]
      exact Region.underRights_keeps rr h
    · obtain ⟨q, h⟩ := not_forall.mp h
      obtain ⟨hq, hw⟩ := Classical.not_imp.mp h
      rw [State.region_rightsSet_of_holder p k rr hq (by simpa using hw)]
      split
      · exact Region.revoked_keeps _ rr wr
      · rw [← Region.leaseOver_of_ended]
        exact (Region.revoked_keeps _ rr wr).trans (Region.leaseOver_keeps _ _)
  · rw [State.region_rightsSet_other s p k rr wr hm]
    exact .refl _

/-- A retired region has no lease and no claim, FREE or RETIRING (R21, R22). -/
theorem State.retire_keeps (s : State) (p : Port) (k : Slot) (n m : RegionId) :
    (s.region m).Keeps ((s.retire p k n).region m) := by
  rw [State.region_retire]
  split
  · split
    · exact Region.keeps_unleased _ rfl rfl rfl rfl rfl
    · exact Region.keeps_unleased _ rfl rfl rfl rfl rfl
  · exact .refl _

/-! ### Requests -/

theorem State.setLink_setLink (s : State) (p : Port) (l l' : Link) :
    (s.setLink p l).setLink p l' = s.setLink p l' := by
  unfold State.setLink
  simp only [PerPort.set_set]

/-- A request whose frame does not arrive changes nothing or the link alone; a request that is taken comes to its action
(R138, R156). -/
theorem request_induction {P : State → Prop} {p : Port} {tag : Byte} {q : Request} {act : Slot → State → State}
    {s t : State} (e : request p tag q act s = .next t) (same : P s) (link : ∀ l, P (s.setLink p l))
    (taken : ∀ k l x, P (act k ((s.setLink p l).setExch p x))) : P t := by
  have flagged : ∀ l l', P ((s.setLink p l).setLink p l') := fun l l' => by
    rw [State.setLink_setLink]; exact link l'
  unfold request whenDue at e
  cases e
  split
  · unfold State.receiveFrame
    dsimp only
    split
    · unfold State.admitFrame
      split
      · exact flagged _ _
      · split
        · exact flagged _ _
        · split
          · exact flagged _ _
          · exact taken _ _ _
    · exact link _
    · exact same
  · exact same

/-- A refused request is answered; an accepted one is carried out (R11). -/
theorem State.LeasesFormed.checked {α : Type} {s : State} (h : s.LeasesFormed) (p : Port) (k : Slot)
    {check : Except Result α} {act : α → State} (ha : ∀ a, check = .ok a → (act a).LeasesFormed) :
    (s.checked p k check act).LeasesFormed := by
  cases hc : check with
  | error r => exact h.of_regions rfl
  | ok a => exact ha a hc

/-- What the checks of CLAIM establish (R29). -/
theorem State.claimCheck_ok {s : State} {p : Port} {b : Byte} {n : RegionId} (h : s.claimCheck p b = .ok n) :
    (s.region n).state ≠ .free ∧ (s.region n).state ≠ .retiring ∧ (s.region n).writeRights.has p = true ∧
      (s.region n).holder ≠ some p ∧ (s.region n).queue.any (fun c => c.port == p) = false ∧ s.leaseCount p < 4 := by
  unfold State.claimCheck at h
  cases hb : s.named b with
  | none => simp [hb] at h
  | some m =>
    simp only [hb] at h
    split at h
    · cases h
    · rename_i hr
      split at h
      · cases h
      · rename_i hw
        split at h
        · cases h
        · rename_i hh
          split at h
          · cases h
          · rename_i hq
            split at h
            · cases h
            · rename_i hl
              cases h
              exact ⟨State.not_free_of_named hb, hr, by simpa using hw, hh, by simpa using hq, by
                simpa [Config.leaseLimit] using hl⟩

/-- An accepted CLAIM: the port is below its limit (R28 to R31). -/
theorem State.LeasesFormed.claim {s : State} (h : s.LeasesFormed) (p : Port) (k : Slot) (b : Byte) {n : RegionId}
    (term wait : Half) (hc : s.claimCheck p b = .ok n) : (s.claimAccepted p k n term wait).LeasesFormed := by
  obtain ⟨hf, hr, hw, hh, hq, hl⟩ := State.claimCheck_ok hc
  have w := h.formed n
  unfold State.claimAccepted
  dsimp only
  split
  · rename_i ho
    have noHolder : (s.region n).holder = none := by
      have := w.holderWhen
      rw [ho] at this
      exact Option.not_isSome_iff_eq_none.mp (by rw [this]; decide)
    refine State.LeasesFormed.of_regions ?_ (State.regions_answer ..)
    exact h.setRegion_more n (Region.granted_form w ho hw _) (fun q => Region.granted_share noHolder p q _) hl
  · rename_i ho
    split
    · exact h.of_regions rfl
    · split
      · exact h.of_regions rfl
      · rename_i hs
        exact h.setRegion_more n (Region.queued_form w hf ho hr (by omega) hw hh hq)
          (fun q => Region.queued_share _ _ q) hl

/-- The region that RENEW and RELEASE act on (R35, R39). -/
theorem State.heldLease_ok {s : State} {p : Port} {b : Byte} {n : RegionId} (h : s.heldLease p b = .ok n) :
    (s.region n).state = .leased ∧ (s.region n).holder = some p := by
  unfold State.heldLease at h
  split at h
  · cases h
  · split at h
    · rename_i hl; cases h; exact hl
    · cases h

theorem State.dropClaim_keeps (s : State) (n : RegionId) (p : Port) (r : Result) : s.Keeps (s.dropClaim n p r) := by
  unfold State.dropClaim
  split
  · exact .refl s
  · exact (s.setRegion_keeps n _ (Region.withoutClaim_keeps _ p)).trans (State.answer_keeps _ _ _ _ _ _)

/-- A flash request that is queued (R53, R82). -/
theorem State.LeasesFormed.enqueue {s : State} (h : s.LeasesFormed) (p : Port) (k : Slot) (d : Dev) :
    (s.enqueue p k d).LeasesFormed := by
  have q : (s.setEntry p k { s.entry p k with state := .queued }).LeasesFormed := h.of_regions rfl
  unfold State.enqueue
  dsimp only
  split
  · exact q.keeps (State.selectIdle_keeps _ d)
  · exact q

/-- A CANCEL, whatever its target (R34, R40, R147). -/
theorem State.LeasesFormed.cancelled {s : State} (h : s.LeasesFormed) (p : Port) (k : Slot) (target : Byte) :
    (s.cancelled p k target).LeasesFormed := by
  unfold State.cancelled
  split
  · exact h.of_regions rfl
  · rename_i j _
    dsimp only
    split
    · unfold State.cancelQueued
      dsimp only
      split
      · exact h.of_regions rfl
      · exact State.LeasesFormed.keeps (s := (s.answer p j .cancelled).answer p k .done) (h.of_regions rfl)
          (State.leaveRelease_keeps _ p j _)
    · split
      · unfold State.cancelClaim
        split
        · exact h.of_regions rfl
        · exact (h.keeps (s.dropClaim_keeps _ p _)).keeps (State.answer_keeps _ _ _ _ _ _)
      · split
        · exact (h.keeps (s.requestStop_keeps p j _)).keeps (State.answer_keeps _ _ _ _ _ _)
        · exact h.of_regions rfl

/-- The action of every request keeps the leases in order. -/
theorem Request.act_leasesFormed (q : Request) (p : Port) (k : Slot) {s : State} (h : s.LeasesFormed) :
    (q.act p k s).LeasesFormed := by
  cases q with
  | claim r t w => exact h.checked p k fun n hn => h.claim p k r t w hn
  | renew r t =>
    refine h.checked p k fun n hn => ?_
    exact (h.setRegion n (Region.renewed_keeps (State.heldLease_ok hn).2 _)).of_regions rfl
  | release r =>
    refine h.checked p k fun n hn => ?_
    unfold State.released
    dsimp only
    split
    · exact h.keeps (s.leaseEnd_keeps n p _)
    · exact h.setRegion n (Region.releasing_keeps (State.heldLease_ok hn).1 k _)
  | watch r =>
    refine h.checked p k fun n _ => ?_
    exact (h.setRegion n (r := { s.region n with watch := (s.region n).watch.insert p })
      (Region.keeps_of_same rfl rfl rfl rfl rfl rfl)).of_regions rfl
  | unwatch r =>
    refine h.checked p k fun n _ => ?_
    exact (h.setRegion n (r := { s.region n with watch := (s.region n).watch.erase p })
      (Region.keeps_of_same rfl rfl rfl rfl rfl rfl)).of_regions rfl
  | findNumber r => exact h.checked p k fun n _ => h.of_regions rfl
  | findAddress d a => exact h.checked p k fun n _ => h.of_regions rfl
  | findLabel l => exact h.checked p k fun n _ => h.of_regions rfl
  | read r o n e => exact h.checked p k fun d _ => h.enqueue p k d
  | program r o f e b => exact h.checked p k fun d _ => h.enqueue p k d
  | erase r f n e => exact h.checked p k fun d _ => h.enqueue p k d
  | define d b n l rr wr m =>
    exact h.checked p k fun x _ =>
      (h.setRegion x.1 (r := x.2.region) (Region.keeps_unleased _ rfl rfl rfl rfl rfl)).of_regions rfl
  | retire r => exact h.checked p k fun n _ => h.of_keeps (s.retire_keeps p k n)
  | setRights r rr wr => exact h.checked p k fun x _ => h.of_keeps (s.rightsSet_keeps p k x.1 x.2.1 x.2.2)
  | setProfile d f =>
    refine h.checked p k fun x _ => ?_
    have set : (s.setProfile x.1 x.2).LeasesFormed := h.of_regions rfl
    exact (set.keeps (State.setSeq_keeps _ x.1 _)).keeps (State.place_keeps _ x.1 _)
  | recover d =>
    exact h.checked p k fun d _ => (h.keeps (s.setSeq_keeps d _)).keeps (State.nextReset_keeps _ d)
  | configure i v => exact h.checked p k fun x _ => h.of_regions rfl
  | cancel x => exact h.cancelled p k x
  | deviceInfo d => exact h.checked p k fun x _ => h.of_regions rfl
  | readSetting i => exact h.checked p k fun x _ => h.of_regions rfl
  | setAttention m => exact h.checked p k fun x _ => h.of_regions rfl
  | unread kind params => exact h

/-! ### The events inside the part -/

/-- A command that is an event inside the part: a tick, an expiry, a poll turn or the end of a transaction. -/
def isInner : Instr → Bool
  | .msTick | .usTick | .leaseExpiry .. | .waitExpiry .. => true
  | .readDataEnd .. | .writeEnableEnd .. | .latchStatusEnd .. | .pageProgramEnd .. | .sectorEraseEnd .. => true
  | .pollTurn .. | .pollStatusEnd .. | .clearStatusEnd .. | .verifyReadEnd .. => true
  | .stepTimerExpiry .. | .dwellTimerExpiry .. | .suspendEnd .. | .suspendingStatusEnd .. => true
  | .suspendTimerExpiry .. | .resumeEnd .. | .resumingStatusEnd .. | .resetTransactionEnd .. => true
  | .recoveryDelayExpiry .. | .recoveryPollTurn .. | .recoveryStatusEnd .. | .recoveryTimerExpiry .. => true
  | .idReadEnd .. => true
  | _ => false

theorem whenDue_keeps {due : Bool} {effect : State → State} {s t : State} (h : s.Keeps (effect s))
    (e : whenDue due effect s = .next t) : s.Keeps t := by
  unfold whenDue at e
  cases e
  split
  · exact h
  · exact .refl s

theorem State.msTick_keeps (s : State) : s.Keeps s.msTick := by
  refine ⟨State.holds_of_same rfl rfl rfl rfl rfl rfl rfl rfl, fun n => ?_⟩
  have h : s.msTick.region n = (s.region n).msTick := by
    simp [State.region, State.msTick]
  rw [h]
  exact Region.msTick_keeps _

theorem State.leaseExpiry_keeps (s : State) (n : RegionId) : s.Keeps (s.leaseExpiry n) := by
  unfold State.leaseExpiry
  split
  · exact .refl s
  · exact s.leaseLoss_keeps n _ false

/-- An event of the current operation acts on an entry in the line of its device. -/
theorem State.onCurrent_inLine (s : State) (d : Dev) (effect : EntryRef → State)
    (h : ∀ r, (s.entry r.port r.slot).state.inLine = true → s.Keeps (effect r)) : s.Keeps (s.onCurrent d effect) :=
  s.onCurrent_keeps d effect fun r hr => h r (EntryState.inLine_of_running hr)

/-- An event inside the part keeps what State.Keeps says. -/
theorem exec_keeps_of_inner {c : Instr} (hc : isInner c = true) {s t : State} (e : exec c s = .next t) :
    s.Keeps t := by
  cases c
  all_goals first | (cases hc; done) | simp only [exec] at e
  case msTick => exact whenDue_keeps s.msTick_keeps e
  case usTick => exact whenDue_keeps (State.keeps_of_same (State.holds_of_same rfl rfl rfl rfl rfl rfl rfl rfl) rfl) e
  case leaseExpiry n => exact whenDue_keeps (s.leaseExpiry_keeps n) e
  case waitExpiry n p => exact whenDue_keeps (s.dropClaim_keeps n p _) e
  case readDataEnd d bytes =>
    exact whenDue_keeps (s.endReading_keeps _ _ fun b t => t.onCurrent_keeps d _ fun r _ => t.readEnded_keeps d r b) e
  case writeEnableEnd d =>
    refine whenDue_keeps (s.endTransaction_keeps _ fun t => t.onCurrent_keeps d _ fun r _ => ?_) e
    split
    · exact t.place_keeps d _
    · exact t.issueStep_keeps d r
  case latchStatusEnd d b =>
    exact whenDue_keeps (s.endStatus_keeps _ _ fun b t => t.onCurrent_keeps d _ fun r _ => t.latchChecked_keeps d r b) e
  case pageProgramEnd d => exact whenDue_keeps (s.endTransaction_keeps _ fun t => t.setSeq_keeps d _) e
  case sectorEraseEnd d => exact whenDue_keeps (s.endTransaction_keeps _ fun t => t.setSeq_keeps d _) e
  case pollTurn d => exact whenDue_keeps (s.onCurrent_keeps d _ fun r _ => s.pollTurn_keeps d r) e
  case pollStatusEnd d b =>
    exact whenDue_keeps (s.endStatus_keeps _ _ fun b t => t.onCurrent_inLine d _ fun r h => t.polled_keeps d r b h) e
  case clearStatusEnd d =>
    exact whenDue_keeps (s.endTransaction_keeps _ fun t => t.onCurrent_keeps d _ fun r _ =>
      t.endOperation_keeps d r _ _ _) e
  case verifyReadEnd d bytes =>
    exact whenDue_keeps (s.endReading_keeps _ _ fun b t => t.onCurrent_keeps d _ fun r _ => t.verified_keeps d r b) e
  case stepTimerExpiry d => exact whenDue_keeps (s.enterFaulted_keeps d) e
  case dwellTimerExpiry d => exact whenDue_keeps (s.setSeq_keeps d _) e
  case suspendEnd d => exact whenDue_keeps (s.endTransaction_keeps _ fun t => t.watchStatus_keeps d _) e
  case suspendingStatusEnd d b =>
    exact whenDue_keeps (s.endStatus_keeps _ _ fun b t => t.onCurrent_inLine d _ fun r h =>
      t.suspendingStatus_keeps d r b h) e
  case suspendTimerExpiry d => exact whenDue_keeps (s.enterFaulted_keeps d) e
  case resumeEnd d => exact whenDue_keeps (s.endTransaction_keeps _ fun t => t.watchStatus_keeps d _) e
  case resumingStatusEnd d b =>
    exact whenDue_keeps (s.endStatus_keeps _ _ fun b t => t.onCurrent_inLine d _ fun r h =>
      t.resumingStatus_keeps d r b h) e
  case resetTransactionEnd d =>
    exact whenDue_keeps (s.endTransaction_keeps _ fun t => (t.setSeq_keeps d _).trans (State.nextReset_keeps _ d)) e
  case recoveryDelayExpiry d => exact whenDue_keeps (s.recoveryPolling_keeps d) e
  case recoveryPollTurn d => exact whenDue_keeps ((s.setSeq_keeps d _).trans (State.place_keeps _ d _)) e
  case recoveryStatusEnd d b => exact whenDue_keeps (s.endStatus_keeps _ _ fun b t => t.recoveryStatus_keeps d b) e
  case recoveryTimerExpiry d => exact whenDue_keeps (s.recoveryFailed_keeps d) e
  case idReadEnd d b0 b1 b2 => exact whenDue_keeps (s.endReading_keeps _ _ fun b t => t.probeEnd_keeps d _) e

/-! ### The links and the reset of a port -/

theorem whenDue_regions {due : Bool} {effect : State → State} {s t : State} (h : (effect s).regions = s.regions)
    (e : whenDue due effect s = .next t) : t.regions = s.regions := by
  unfold whenDue at e
  cases e
  split
  · exact h
  · rfl

/-- A byte whose effect leaves the region records leaves them (R152). -/
theorem State.byteIn_regions (s : State) (p : Port) (b : Byte) (effect : Byte → State → State)
    (h : ∀ b t, (effect b t).regions = t.regions) : (s.byteIn p b effect).regions = s.regions :=
  foldl_keeps (fun a b : State => b.regions = a.regions) (fun _ => rfl) (fun h g => g.trans h) _ _
    (fun t b _ => h b t) (s.setLink p _)

theorem State.leadCompletes_regions (s : State) (p : Port) (lead : Byte) :
    (s.leadCompletes p lead).regions = s.regions := by
  refine s.byteIn_regions p lead _ fun b t => ?_
  unfold State.decoded
  split <;> rfl

theorem State.receiveFrame_regions (s : State) (p : Port) (bytes : List Byte) (next : State → State)
    (h : ∀ t, (next t).regions = t.regions) : (s.receiveFrame p bytes next).regions = s.regions := by
  unfold State.receiveFrame
  dsimp only
  split
  · exact h _
  · rfl
  · rfl

theorem State.delivered_regions (s : State) (p : Port) (item : TakeItem) : (s.delivered p item).regions = s.regions := by
  cases item <;> rfl

/-- A command of a host link that is neither a request nor a port reset. -/
def isTransport : Instr → Bool
  | .selectFall .. | .selectRise .. | .unknownLead .. | .put .. | .take .. | .status .. | .linkReset .. => true
  | .frameTooLong .. | .checkMismatch .. | .unknownKind .. | .takeDelivery .. | .statusFlagsClear .. => true
  | _ => false

theorem exec_regions_of_transport {c : Instr} (hc : isTransport c = true) {s t : State} (e : exec c s = .next t) :
    t.regions = s.regions := by
  cases c
  all_goals first | (cases hc; done) | simp only [exec] at e
  case selectFall p => exact whenDue_regions (by unfold State.selectFallen; split <;> rfl) e
  case selectRise p => exact whenDue_regions (by unfold State.selectRisen; split <;> rfl) e
  case unknownLead p lead => exact whenDue_regions (s.leadCompletes_regions p _) e
  case put p => exact whenDue_regions (s.leadCompletes_regions p _) e
  case take p => exact whenDue_regions (s.leadCompletes_regions p _) e
  case status p => exact whenDue_regions (s.leadCompletes_regions p _) e
  case linkReset p => exact whenDue_regions (s.leadCompletes_regions p _) e
  case frameTooLong p tag kind declared => exact whenDue_regions (s.receiveFrame_regions p _ _ fun _ => rfl) e
  case checkMismatch p tag kind params check => exact whenDue_regions (s.receiveFrame_regions p _ _ fun _ => rfl) e
  case unknownKind p tag kind params =>
    refine whenDue_regions (s.receiveFrame_regions p _ _ fun t => ?_) e
    unfold State.admitFrame
    dsimp only
    split
    · rfl
    · split
      · rfl
      · split <;> rfl
  case takeDelivery p =>
    refine whenDue_regions ?_ e
    dsimp only
    split
    · rfl
    · exact State.delivered_regions ..
  case statusFlagsClear p => exact whenDue_regions rfl e

/-- The confirm byte of a LINK RESET (R165). -/
theorem execLinkResetConfirm_eq {s : State} {p : Port} (h : s.Shifts p .resetConfirm) (b : Byte) :
    execLinkResetConfirm p b s = .next (if b = confirmReset then
      (s.setLink p { s.link p with phase := .ignored, count := 0 }).portReset p
      else s.setLink p { s.link p with phase := .ignored, count := 0 }) := by
  unfold execLinkResetConfirm
  rw [whenDue_true ((s.shifts_iff p _).mpr h)]
  dsimp only
  rw [State.byteIn_whole h]

theorem State.endLeases_keeps (s : State) (p : Port) : s.Keeps (s.endLeases p) := by
  refine foldl_keeps State.Keeps .refl .trans _ _ (fun t n _ => ?_) s
  split
  · exact t.leaseLoss_keeps n p true
  · exact .refl t

/-- The port reset before the leases end (R10, R46, R143, R150). -/
def State.portCleared (s : State) (p : Port) : State :=
  { ((s.setLink p { s.link p with flags := .clear, mask := .clear }).setNotices p []).setExch p (s.exch p).portReset with
    seqs := ⟨s.seqs.d0.portReset p, s.seqs.d1.portReset p⟩, regions := s.regions.map (Region.portReset p) }

theorem State.portReset_eq (s : State) (p : Port) :
    s.portReset p = (s.portCleared p).inAdmissionOrder fun t => t.endLeases p := rfl

theorem State.region_portCleared (s : State) (p : Port) (n : RegionId) :
    (s.portCleared p).region n = (s.region n).portReset p := by
  simp [State.region, State.portCleared]

theorem State.LeasesFormed.portReset {s : State} (h : s.LeasesFormed) (p : Port) : (s.portReset p).LeasesFormed := by
  have cleared : (s.portCleared p).LeasesFormed :=
    h.of_keeps fun n => by rw [State.region_portCleared]; exact Region.portReset_keeps _ p
  rw [State.portReset_eq]
  exact cleared.keeps (State.inAdmissionOrder_keeps _ _ (State.endLeases_keeps _ p))

/-! ### The reset of the part (R189) -/

/-- The preset form of the region records (R9). -/
theorem presetRegions_get (admin : Option Port) (n : RegionId) : (presetRegions admin)[n.val] =
    if n.val = 0 then Region.preset .d0 [0x44#8, 0x45#8, 0x56#8, 0x30#8] admin
    else if n.val = 1 then Region.preset .d1 [0x44#8, 0x45#8, 0x56#8, 0x31#8] admin
    else Region.free := by
  simp only [presetRegions, Vector.getElem_set, Vector.getElem_replicate]
  by_cases h0 : n.val = 0
  · simp [h0]
  · by_cases h1 : n.val = 1
    · simp [h1]
    · simp [h0, h1, eq_comm]

theorem State.region_blocksReset (admin : Option Port) (links : PerPort Link) (pending : List Instr) (n : RegionId) :
    (State.blocksReset admin links pending).region n =
      if n.val = 0 then Region.preset .d0 [0x44#8, 0x45#8, 0x56#8, 0x30#8] admin
      else if n.val = 1 then Region.preset .d1 [0x44#8, 0x45#8, 0x56#8, 0x31#8] admin
      else Region.free := presetRegions_get admin n

/-- No preset region is leased (R9). -/
theorem State.blocksReset_leasesFormed (admin : Option Port) (links : PerPort Link) (pending : List Instr) :
    (State.blocksReset admin links pending).LeasesFormed := by
  have unleased : ∀ n, Region.free.Keeps ((State.blocksReset admin links pending).region n) := by
    intro n
    rw [State.region_blocksReset]
    split
    · exact Region.keeps_unleased _ rfl rfl rfl rfl rfl
    · split
      · exact Region.keeps_unleased _ rfl rfl rfl rfl rfl
      · exact .refl _
  refine ⟨fun n => (unleased n Region.free_form).1, fun p => ?_⟩
  rw [State.leaseCount_eq_sum]
  have none : ∀ n, ((State.blocksReset admin links pending).region n).share p = 0 := fun n =>
    Nat.le_zero.mp ((unleased n Region.free_form).2 p)
  simp [none]

theorem State.resetAction_leasesFormed (s : State) (admin : Option Port) (first : Dev) :
    (s.resetAction admin first).LeasesFormed :=
  ((State.blocksReset_leasesFormed admin _ _).keeps (State.place_keeps _ first _)).keeps (State.place_keeps _ _ _)

/-! ### Every step -/

/-- Every command keeps the leases in order: a request by its kind's action, an event inside the part by State.Keeps, a
command of a link without reaching the table, and a reset by the records it writes. -/
theorem exec_leasesFormed {c : Instr} {s t : State} (h : s.LeasesFormed) (e : exec c s = .next t) :
    t.LeasesFormed := by
  cases hq : requestOf c with
  | some x =>
    obtain ⟨p, tag, q⟩ := x
    rw [exec_of_requestOf hq] at e
    exact request_induction e h (fun l => h.of_regions rfl)
      fun k l x => Request.act_leasesFormed q p k (h.of_regions rfl)
  | none =>
    cases hi : isInner c
    case true => exact h.keeps (exec_keeps_of_inner hi e)
    cases ht : isTransport c
    case true => exact h.of_regions (exec_regions_of_transport ht e)
    cases c
    all_goals first | (cases hq; done) | (cases hi; done) | (cases ht; done) | simp only [exec] at e
    case powerOn a b d =>
      cases e
      exact s.resetAction_leasesFormed _ d
    case resetnAssert => exact h.of_regions (whenDue_regions rfl e)
    case resetnRelease a b d =>
      unfold execResetnRelease whenDue at e
      cases e
      split
      · exact s.resetAction_leasesFormed _ d
      · exact h
    case linkResetConfirm p b =>
      cases hs : s.shifts p .resetConfirm
      · rw [show execLinkResetConfirm p b s = .next s from whenDue_false hs] at e
        cases e
        exact h
      · rw [execLinkResetConfirm_eq ((s.shifts_iff p _).mp hs)] at e
        cases e
        have link : (s.setLink p { s.link p with phase := .ignored, count := 0 }).LeasesFormed := h.of_regions rfl
        split
        · exact link.portReset p
        · exact link

/-- Settles O56: the idle step reaches no region, and every command keeps the leases in order. -/
theorem stepsKeepTheRegions : Obligations.StepsKeepTheRegions := by
  intro s t formed limited e
  have h : s.LeasesFormed := ⟨formed, limited⟩
  suffices k : t.LeasesFormed from ⟨k.formed, k.limited⟩
  unfold step at e
  split at e
  · cases e
    refine h.of_regions ?_
    unfold State.idle
    split <;> rfl
  · rename_i rest _
    have h' : State.LeasesFormed { s with pending := rest } := h.of_regions rfl
    exact exec_leasesFormed h' e

end Sys2Proof.Machine
end

section
/-! The ends of operations and the port reset at the Region Table: O22, O16, and the state in which a port reset breaks the
table, O58. -/

namespace Sys2Proof.Machine

/-! ### The ends of operations (R22, R40, R48) -/

/-- Outside RELEASING an entry that ends leaves no outstanding set (R40). -/
theorem State.leaveRelease_of_state {s : State} {n : RegionId} (h : (s.region n).state ≠ .releasing) (p : Port)
    (k : Slot) : s.leaveRelease p k n = s := by
  unfold State.leaveRelease
  rw [if_neg (by simp [h])]

/-- An entry of the outstanding set leaves it; the last one ends the lease (R40). -/
theorem State.leaveRelease_of_mem {s : State} {n : RegionId} {p : Port} {k : Slot} (hs : (s.region n).state = .releasing)
    (hh : (s.region n).holder = some p) (hk : k ∈ (s.region n).outstanding) :
    s.leaveRelease p k n =
      if ((s.region n).outstanding.erase k).isEmpty then s.leaseEnd n p (s.region n).release
      else s.setRegion n { s.region n with outstanding := (s.region n).outstanding.erase k } := by
  unfold State.leaveRelease
  rw [if_pos (by simp [hs, hh, hk])]

/-- A region whose lease has been handed over is OPEN or LEASED (R38). -/
theorem Region.leaseOver_state (x : Settings) (r : Region) :
    (r.leaseOver x).state = .opened ∨ (r.leaseOver x).state = .leased := by
  cases h : r.queue with
  | nil => rw [Region.leaseOver_nil h]; exact .inl rfl
  | cons c rest => rw [Region.leaseOver_cons h]; exact .inr rfl

/-- In FREE, OPEN, LEASED and RELEASING the end of an operation means no more than that an entry has ended (R75). -/
theorem State.operationEnded_of_state {s t : State} {p : Port} {k : Slot} {n : RegionId} {write : Bool}
    (ht : s.leaveRelease p k n = t) (hc : (t.region n).state ≠ .closing) (hr : (t.region n).state ≠ .retiring) :
    s.operationEnded p k n write = t := by
  unfold State.operationEnded
  rw [ht]
  dsimp only
  cases h : (t.region n).state with
  | closing => exact absurd h hc
  | retiring => exact absurd h hr
  | free | opened | leased | releasing => rfl

/-- In CLOSING the end of a write ends the lease (R48). -/
theorem State.operationEnded_closing {s : State} {p : Port} {k : Slot} {n : RegionId} {write : Bool}
    (h : (s.region n).state = .closing) :
    s.operationEnded p k n write = if write then s.leaseEnd n p none else s := by
  unfold State.operationEnded
  rw [State.leaveRelease_of_state (by rw [h]; decide)]
  simp only [h]

/-- In RETIRING the last end frees the region (R22). -/
theorem State.operationEnded_retiring {s : State} {p : Port} {k : Slot} {n : RegionId} {write : Bool}
    (h : (s.region n).state = .retiring) :
    s.operationEnded p k n write = if s.inProgress n then s else s.freeRegion n := by
  unfold State.operationEnded
  rw [State.leaveRelease_of_state (by rw [h]; decide)]
  simp only [h]

/-- Settles O22: one case for each state of the region. -/
theorem operationEndsReachTheRegion : Obligations.OperationEndsReachTheRegion := by
  intro s p k n write
  refine ⟨fun hs hh hk hne => ?_, fun hs hh ho => ?_, fun hs hw => ?_, fun hs hw => ?_, fun hs hp => ?_,
    fun hs hp => ⟨?_, ?_, fun e he hw hE => ?_⟩, fun hs => ?_⟩
  · refine State.operationEnded_of_state ?_ ?_ ?_
    · rw [State.leaveRelease_of_mem hs hh hk, if_neg (by simpa using hne)]
    · rw [State.region_setRegion_same]; simp [hs]
    · rw [State.region_setRegion_same]; simp [hs]
  · have hl : s.leaveRelease p k n = s.leaseEnd n p (s.region n).release := by
      rw [State.leaveRelease_of_mem hs hh (by simp [ho]), if_pos (by simp [ho])]
    have next : ((s.leaseEnd n p (s.region n).release).region n).state = .opened ∨
        ((s.leaseEnd n p (s.region n).release).region n).state = .leased := by
      rw [State.region_leaseEnd, if_pos rfl]
      exact (s.region n).leaseOver_state s.settings
    refine State.operationEnded_of_state hl ?_ ?_ <;> (obtain e | e := next <;> rw [e] <;> decide)
  · rw [State.operationEnded_closing hs, if_pos hw]
  · rw [State.operationEnded_closing hs, if_neg (by simp [hw])]
  · rw [State.operationEnded_retiring hs, if_pos hp]
  · rw [State.operationEnded_retiring hs, if_neg (by simp [hp]), State.region_freeRegion, if_pos rfl]
  · rw [State.operationEnded_retiring hs, if_neg (by simp [hp]), State.epoch_freeRegion]
  · rw [State.operationEnded_retiring hs, if_neg (by simp [hp]), State.entry_freeRegion, if_pos he,
      Entry.answered_of_open (by rw [hw]; rfl)]
    simp [hE]
  · refine State.operationEnded_of_state (State.leaveRelease_of_state ?_ p k) ?_ ?_ <;>
      (obtain h | h | h := hs <;> rw [h] <;> decide)

/-! ### The port reset (R10, R45, R46) -/

/-- What the reset of a port makes of a region: its lease ends there, in CLOSING while a write of it drains (R45). -/
def State.leaseReset (s : State) (p : Port) (n : RegionId) : Region :=
  if (s.region n).holder = some p then
    if s.writeInProgress p n then { (s.region n).leaseEnded with state := .closing }
    else (s.region n).leaseOver s.settings
  else s.region n

/-- No claim of the port stands in a queue: what a port reset sees to before it ends the leases (R46). -/
def State.Claimless (s : State) (p : Port) : Prop := ∀ n, ∀ c ∈ (s.region n).queue, c.port ≠ p

/-- The reset of a port at one region. -/
def State.endLease (s : State) (p : Port) (n : RegionId) : State :=
  if (s.region n).holder == some p then s.leaseLoss n p true else s

theorem State.endLeases_eq (s : State) (p : Port) :
    s.endLeases p = allRegions.foldl (fun s n => s.endLease p n) s := rfl

theorem State.region_endLease (s : State) (p : Port) (n m : RegionId) :
    (s.endLease p n).region m = if m = n then s.leaseReset p n else s.region m := by
  unfold State.endLease State.leaseReset
  by_cases h : (s.region n).holder = some p
  · simp only [h, beq_self_eq_true, if_true]
    exact s.region_leaseLoss n m p true
  · rw [if_neg (by simpa using h), if_neg h]
    split
    · rename_i e; rw [e]
    · rfl

theorem State.endLease_work (s : State) (p : Port) (n : RegionId) : s.TableWork (s.endLease p n) := by
  unfold State.endLease
  split
  · exact s.leaseLoss_work n p true
  · exact .refl s

/-- A hand-over answers no entry of a port that has no claim in the queue (R38). -/
theorem State.exch_leaseEnd_of_claimless {s : State} {n : RegionId} {p : Port}
    (h : ∀ c ∈ (s.region n).queue, c.port ≠ p) (ex : Port) : (s.leaseEnd n ex none).exch p = s.exch p := by
  have changed : (s.postChanged n ex).exch p = s.exch p := by
    unfold State.exch; rw [State.exchs_postChanged]
  unfold State.leaseEnd
  rw [State.exch_setRegion]
  cases hq : (s.region n).queue with
  | nil => exact changed
  | cons c rest =>
    simp only [List.head?_cons, State.answerGranted, State.answerWhere, State.answer]
    have hc : p ≠ c.port := (h c (by rw [hq]; exact List.mem_cons_self ..)).symm
    rw [State.exch_setExch, if_neg hc]
    exact changed

/-- The end of a lease by the reset of its port answers no entry of the port (R45). -/
theorem State.exch_endLease {s : State} {p : Port} (h : s.Claimless p) (n : RegionId) :
    (s.endLease p n).exch p = s.exch p := by
  unfold State.endLease
  split
  · unfold State.leaseLoss
    dsimp only
    rw [if_pos rfl]
    split
    · rfl
    · exact State.exch_leaseEnd_of_claimless (h n) p
  · rfl

/-- A hand-over leaves in the queue what stood there (R38). -/
theorem Region.queue_leaseOver (x : Settings) (r : Region) : ∀ c ∈ (r.leaseOver x).queue, c ∈ r.queue := by
  intro c hc
  cases h : r.queue with
  | nil => rw [Region.leaseOver_nil h] at hc; exact h ▸ hc
  | cons d rest => rw [Region.leaseOver_cons h] at hc; exact List.mem_cons_of_mem d hc

/-- A hand-over gives the region to a port of the queue, or to none (R38). -/
theorem Region.holder_leaseOver {r : Region} {p : Port} (h : ∀ c ∈ r.queue, c.port ≠ p) (x : Settings) :
    (r.leaseOver x).holder ≠ some p := by
  cases hq : r.queue with
  | nil => rw [Region.leaseOver_nil hq]; simp [Region.leaseEnded]
  | cons c rest =>
    rw [Region.leaseOver_cons hq]
    exact fun e => h c (by rw [hq]; exact List.mem_cons_self ..) (Option.some.inj e)

theorem Region.watch_leaseOver (x : Settings) (r : Region) : (r.leaseOver x).watch = r.watch := by
  cases h : r.queue with
  | nil => rw [Region.leaseOver_nil h]; rfl
  | cons c rest => rw [Region.leaseOver_cons h]; rfl

theorem State.queue_leaseReset (s : State) (p : Port) (n : RegionId) :
    ∀ c ∈ (s.leaseReset p n).queue, c ∈ (s.region n).queue := by
  intro c hc
  unfold State.leaseReset at hc
  split at hc
  · split at hc
    · exact hc
    · exact Region.queue_leaseOver _ _ c hc
  · exact hc

theorem State.Claimless.endLease {s : State} {p : Port} (h : s.Claimless p) (n : RegionId) :
    (s.endLease p n).Claimless p := by
  intro m c hc
  rw [State.region_endLease] at hc
  split at hc
  · exact h n c (s.queue_leaseReset p n c hc)
  · exact h m c hc

theorem State.writeInProgress_of_exch {s t : State} {p : Port} (h : t.exch p = s.exch p) (n : RegionId) :
    t.writeInProgress p n = s.writeInProgress p n :=
  State.writeInProgress_congr fun k => by unfold State.entry; rw [h]; exact ⟨rfl, rfl, rfl⟩

/-- The reset of a port at one region does not change what it comes to at another. -/
theorem State.leaseReset_endLease {s : State} {p : Port} (h : s.Claimless p) {n m : RegionId} (hm : m ≠ n) :
    (s.endLease p n).leaseReset p m = s.leaseReset p m := by
  unfold State.leaseReset
  rw [State.region_endLease, if_neg hm, State.writeInProgress_of_exch (State.exch_endLease h n),
    (s.endLease_work p n).settings]

/-- The leases of a port end region by region, each by what stood before (R45, R178). -/
theorem State.region_foldl_endLease {p : Port} (l : List RegionId) (once : l.Nodup) {s : State} (h : s.Claimless p)
    (m : RegionId) :
    (l.foldl (fun s n => s.endLease p n) s).region m = if m ∈ l then s.leaseReset p m else s.region m := by
  induction l generalizing s with
  | nil => simp
  | cons n l ih =>
    obtain ⟨hn, hl⟩ := List.nodup_cons.mp once
    rw [List.foldl_cons, ih hl (h.endLease n)]
    by_cases hm : m = n
    · subst hm
      rw [if_neg hn, State.region_endLease, if_pos rfl, if_pos (List.mem_cons_self ..)]
    · rw [State.leaseReset_endLease h hm, State.region_endLease, if_neg hm]
      simp only [List.mem_cons, hm, false_or]

theorem State.region_endLeases {s : State} {p : Port} (h : s.Claimless p) (m : RegionId) :
    (s.endLeases p).region m = s.leaseReset p m := by
  rw [State.endLeases_eq, State.region_foldl_endLease allRegions (List.nodup_finRange _) h, if_pos (mem_allRegions m)]

theorem State.endLeases_work (s : State) (p : Port) : s.TableWork (s.endLeases p) :=
  foldl_keeps State.TableWork .refl .trans _ _ (fun t n _ => t.endLease_work p n) s

/-! ### The port reset as a whole -/

theorem Region.queue_portReset (r : Region) (p : Port) : ∀ c ∈ (r.portReset p).queue, c.port ≠ p := by
  intro c hc
  have := (List.mem_filter.mp hc).2
  simpa using this

theorem State.portCleared_claimless (s : State) (p : Port) : (s.portCleared p).Claimless p := by
  intro n c hc
  rw [State.region_portCleared] at hc
  exact Region.queue_portReset _ p c hc

theorem State.entry_portCleared (s : State) (p : Port) (k : Slot) :
    (s.portCleared p).entry p k = (s.entry p k).portReset := by
  have h : (s.portCleared p).exch p = (s.exch p).portReset := State.exch_setExch_same _ p _
  unfold State.entry
  rw [h]
  simp [Exchange.entry, Exchange.portReset]

/-- The port reset lets the operations in progress drain (R149, R150). -/
theorem State.writeInProgress_portCleared (s : State) (p : Port) (n : RegionId) :
    (s.portCleared p).writeInProgress p n = s.writeInProgress p n := by
  unfold State.writeInProgress
  congr 1; funext k
  rw [State.entry_portCleared]
  unfold Entry.portReset
  cases h : (s.entry p k).state <;> simp only [h] <;> rfl

theorem State.leaseReset_portCleared (s : State) (p : Port) (n : RegionId) :
    (s.portCleared p).leaseReset p n =
      if (s.region n).holder = some p then
        if s.writeInProgress p n then { ((s.region n).portReset p).leaseEnded with state := .closing }
        else ((s.region n).portReset p).leaseOver s.settings
      else (s.region n).portReset p := by
  unfold State.leaseReset
  rw [State.region_portCleared, State.writeInProgress_portCleared]
  rfl

/-- The region records after a port reset (R10, R45, R46). -/
theorem State.region_portReset (s : State) (p : Port) (n : RegionId) :
    (s.portReset p).region n = (s.portCleared p).leaseReset p n := by
  rw [State.portReset_eq]
  unfold State.inAdmissionOrder
  rw [State.region_regroup, State.region_endLeases (s.portCleared_claimless p) n]

/-- The sequencers after a port reset (R143, R150). -/
theorem State.seq_portReset (s : State) (p : Port) (d : Dev) : (s.portReset p).seq d = (s.seq d).portReset p := by
  rw [State.portReset_eq]
  have work : (s.portCleared p).TableWork ((s.portCleared p).inAdmissionOrder fun t => t.endLeases p) :=
    State.regroup_work (State.endLeases_work _ p)
  unfold State.seq
  rw [work.seqs]
  cases d <;> rfl

/-- After the reset of a port no region is its (R45, R46). -/
theorem State.region_portReset_released (s : State) (p : Port) (n : RegionId) :
    ((s.portReset p).region n).holder ≠ some p ∧ ((s.portReset p).region n).watch.has p = false ∧
      ∀ c ∈ ((s.portReset p).region n).queue, c.port ≠ p := by
  have watch : ((s.region n).portReset p).watch.has p = false := by cases p <;> rfl
  have queue := (s.region n).queue_portReset p
  rw [State.region_portReset, State.leaseReset_portCleared]
  split
  · split
    · exact ⟨by simp [Region.leaseEnded], watch, queue⟩
    · exact ⟨Region.holder_leaseOver queue _, by rw [Region.watch_leaseOver]; exact watch,
        fun c hc => queue c (Region.queue_leaseOver _ _ c hc)⟩
  · rename_i hh
    exact ⟨hh, watch, queue⟩

/-- Settles O16: claims, watches and pending retires of the port go first, so the leases end region by region. -/
theorem portResetAtTheRegionTable : Obligations.PortResetAtTheRegionTable := by
  intro s p h
  obtain ⟨u, hu⟩ : ∃ u, u = s.setLink p { s.link p with phase := .ignored, count := 0 } := ⟨_, rfl⟩
  have hexec : exec (.linkResetConfirm p 0x6D#8) s = .next (u.portReset p) := by
    rw [show exec (.linkResetConfirm p 0x6D#8) s = execLinkResetConfirm p 0x6D#8 s from rfl, execLinkResetConfirm_eq h,
      if_pos (show (0x6D#8 : Byte) = confirmReset from rfl), hu]
  have region : ∀ n, (u.portReset p).region n =
      if (s.region n).holder = some p then
        if s.writeInProgress p n then { ((s.region n).portReset p).leaseEnded with state := .closing }
        else ((s.region n).portReset p).leaseOver s.settings
      else (s.region n).portReset p := by
    intro n
    rw [State.region_portReset, State.leaseReset_portCleared, hu]
    rfl
  refine ⟨_, hexec, fun n hn => ?_, fun n hn => ?_, u.region_portReset_released p, fun d => ?_⟩
  · rw [region, if_neg hn]
  · rw [region, if_pos hn]
  · rw [State.seq_portReset, hu]
    rfl

end Sys2Proof.Machine
end

section
/-! The reset state (R9, R117, R189), O60, and the state from which a port reset breaks the table, O58. -/

namespace Sys2Proof.Machine

/-! ### The reset state -/

/-- The region records of the reset state are the preset ones for Port A (R9). -/
theorem State.region_reset (n : RegionId) : State.reset.region n =
    if n.val = 0 then Region.preset .d0 [0x44#8, 0x45#8, 0x56#8, 0x30#8] (some .a)
    else if n.val = 1 then Region.preset .d1 [0x44#8, 0x45#8, 0x56#8, 0x31#8] (some .a)
    else Region.free := State.region_blocksReset (some .a) ⟨.initial, .initial, .initial⟩ [] n

/-- The regions of the reset state that are not FREE: one on each device (R9). -/
theorem State.region_reset_of_not_free {n : RegionId} (h : (State.reset.region n).state ≠ .free) :
    (n.val = 0 ∧ State.reset.region n = Region.preset .d0 [0x44#8, 0x45#8, 0x56#8, 0x30#8] (some .a)) ∨
    (n.val = 1 ∧ State.reset.region n = Region.preset .d1 [0x44#8, 0x45#8, 0x56#8, 0x31#8] (some .a)) := by
  rw [State.region_reset] at h ⊢
  by_cases h0 : n.val = 0
  · exact .inl ⟨h0, if_pos h0⟩
  · by_cases h1 : n.val = 1
    · exact .inr ⟨h1, by rw [if_neg h0, if_pos h1]⟩
    · rw [if_neg h0, if_neg h1] at h
      exact absurd rfl h

/-- No region of the reset state has a claim, a waiting RELEASE or a pending retire (R9). -/
theorem State.region_reset_unreferred (n : RegionId) :
    (State.reset.region n).queue = [] ∧ (State.reset.region n).release = none ∧
      (State.reset.region n).pendingRetire = none := by
  rw [State.region_reset]
  split
  · exact ⟨rfl, rfl, rfl⟩
  · split <;> exact ⟨rfl, rfl, rfl⟩

/-- The preset regions lie on two devices, each with 4096 sectors, under two labels (R3, R4, R9). -/
theorem State.reset_tableConsistent : State.reset.TableConsistent := by
  refine ⟨fun m n hmn hm hn hd => ?_, fun n d hn hd => ?_, fun m n hmn hm hn hl => ?_⟩
  · obtain ⟨hm, em⟩ | ⟨hm, em⟩ := State.region_reset_of_not_free hm <;>
      obtain ⟨hn, en⟩ | ⟨hn, en⟩ := State.region_reset_of_not_free hn
    · exact absurd (Fin.ext (hm.trans hn.symm)) hmn
    · rw [em, en] at hd; cases hd
    · rw [em, en] at hd; cases hd
    · exact absurd (Fin.ext (hm.trans hn.symm)) hmn
  · have sectors : (State.reset.profile d).sectors = 4096 := by cases d <;> rfl
    rw [sectors]
    obtain ⟨-, en⟩ | ⟨-, en⟩ := State.region_reset_of_not_free hn <;> rw [en] <;> decide
  · obtain ⟨hm, em⟩ | ⟨hm, em⟩ := State.region_reset_of_not_free hm <;>
      obtain ⟨hn, en⟩ | ⟨hn, en⟩ := State.region_reset_of_not_free hn
    · exact absurd (Fin.ext (hm.trans hn.symm)) hmn
    · rw [em, en] at hl; exact absurd hl (by decide)
    · rw [em, en] at hl; exact absurd hl (by decide)
    · exact absurd (Fin.ext (hm.trans hn.symm)) hmn

/-- Nothing waits in the reset state (R189). -/
theorem State.reset_waitsReferred : State.reset.WaitsReferred := by
  refine ⟨fun n c hc => ?_, fun n k hk => ?_, fun n e he => ?_, fun d e he => ?_, fun p k hk => ?_⟩
  · rw [(State.region_reset_unreferred n).1] at hc; cases hc
  · rw [(State.region_reset_unreferred n).2.1] at hk; cases hk
  · rw [(State.region_reset_unreferred n).2.2] at he; cases he
  · cases d <;> cases he
  · cases p <;> cases hk

/-- The reset values of the settings lie in their ranges (R181). -/
theorem Settings.initial_inRange : Settings.initial.inRange := by
  intro id v h
  fin_cases id <;> (cases h; decide)

/-- The write rights of a preset region are the administrator's (R9). -/
theorem PortSet.ofAdmin_eq (admin : Option Port) :
    PortSet.ofAdmin admin = ⟨admin == some .a, admin == some .b, admin == some .c⟩ := by
  cases admin with
  | none => rfl
  | some p => cases p <;> rfl

/-- Settles O60, clause by clause. -/
theorem resetStateIsWellFormed : Obligations.ResetStateIsWellFormed := by
  have leases : State.reset.LeasesFormed :=
    (State.blocksReset_leasesFormed (some .a) ⟨.initial, .initial, .initial⟩ []).of_regions rfl
  refine ⟨⟨fun p => ?_, leases.formed, State.reset_tableConsistent, State.reset_waitsReferred, leases.limited,
    Settings.initial_inRange, fun d => ?_, fun p => ?_, rfl⟩, fun admin n => ?_, by decide, rfl, rfl⟩
  · cases p <;> exact Exchange.initial_form
  · cases d <;> decide
  · cases p <;> exact List.nodup_nil
  · rw [presetRegions_get, ← PortSet.ofAdmin_eq]
    rfl

/-! ### The state of the refutation -/

/-- A record that no run from reset writes: FREE, with a holder, over the first sector of device 0. -/
def strayRegion : Region := { Region.free with holder := some .a, device := some .d0, sectorCount := 1 }

/-- The reset state with the stray record in slot 5 and Port A about to confirm a LINK RESET. -/
def strayState : State :=
  (State.reset.setRegion 5 strayRegion).setLink .a { Link.initial with selectLow := true, phase := .resetConfirm }

theorem strayState_region (n : RegionId) :
    strayState.region n = if n = 5 then strayRegion else State.reset.region n :=
  State.reset.region_setRegion 5 n strayRegion

theorem strayState_region_of_not_free {n : RegionId} (h : (strayState.region n).state ≠ .free) :
    strayState.region n = State.reset.region n := by
  rw [strayState_region] at h ⊢
  by_cases e : n = 5
  · rw [if_pos e] at h; exact absurd rfl h
  · rw [if_neg e]

/-- The table says nothing of a FREE record, so it is consistent with the stray one. -/
theorem strayState_tableConsistent : strayState.TableConsistent := by
  have w := State.reset_tableConsistent
  refine ⟨fun m n hmn hm hn => ?_, fun n d hn => ?_, fun m n hmn hm hn => ?_⟩
  · have em := strayState_region_of_not_free hm
    have en := strayState_region_of_not_free hn
    rw [em] at hm ⊢; rw [en] at hn ⊢
    exact w.apart m n hmn hm hn
  · have en := strayState_region_of_not_free hn
    rw [en] at hn ⊢
    exact w.inside n d hn
  · have em := strayState_region_of_not_free hm
    have en := strayState_region_of_not_free hn
    rw [em] at hm ⊢; rw [en] at hn ⊢
    exact w.labels m n hmn hm hn

/-- The end of the stray lease leaves a region that is not FREE over the first sector of device 0 (R45). -/
theorem strayRegion_reset (r : Region) (h : r = { (strayRegion.portReset .a).leaseEnded with state := .closing } ∨
    r = (strayRegion.portReset .a).leaseOver strayState.settings) :
    r.state ≠ .free ∧ r.device = some .d0 ∧ r.baseSector = 0 ∧ r.sectorCount = 1 := by
  obtain rfl | rfl := h <;> exact ⟨by decide, rfl, rfl, rfl⟩

/-- Refutes O58: it does not ask that the region records be well formed, and a port reset ends the lease of a FREE record
that names the port as its holder, which makes it OPEN over the sectors of region 0. -/
theorem not_stepsKeepTheTableConsistent : ¬ Obligations.StepsKeepTheTableConsistent := by
  intro h
  obtain ⟨t, ht, other, held, -⟩ := portResetAtTheRegionTable strayState .a ⟨rfl, rfl, rfl, rfl⟩
  have w : t.TableConsistent :=
    h { strayState with pending := [.linkResetConfirm .a 0x6D#8] } t
      ⟨strayState_tableConsistent.apart, strayState_tableConsistent.inside, strayState_tableConsistent.labels⟩ ht
  have stray : (t.region 5).state ≠ .free ∧ (t.region 5).device = some .d0 ∧ (t.region 5).baseSector = 0 ∧
      (t.region 5).sectorCount = 1 := by
    have e : strayState.region 5 = strayRegion := by rw [strayState_region, if_pos rfl]
    have := held 5 (by rw [e]; rfl)
    rw [e] at this
    refine strayRegion_reset _ ?_
    split at this
    · exact .inl this
    · exact .inr this
  have first : t.region 0 = (Region.preset .d0 [0x44#8, 0x45#8, 0x56#8, 0x30#8] (some .a)).portReset .a := by
    have e : strayState.region 0 = Region.preset .d0 [0x44#8, 0x45#8, 0x56#8, 0x30#8] (some .a) := by
      rw [strayState_region, if_neg (by decide), State.region_reset,
        if_pos (show (0 : RegionId).val = 0 from rfl)]
    rw [← e]
    exact other 0 (by rw [e]; decide)
  obtain ⟨hs, hd, hb, hc⟩ := stray
  have apart := w.apart 0 5 (by decide) (by rw [first]; decide) hs (by rw [first, hd]; rfl)
  rw [first, hb, hc] at apart
  exact absurd apart (by decide)

end Sys2Proof.Machine
end

section
/-! Requests that name no region, the lookups and DEFINE: O17, O25 and O27. -/

namespace Sys2Proof.Machine

/-! ### Refused and accepted requests (R11) -/

/-- A request that fails a check of its kind is answered with the refusal. -/
theorem exec_refused {α : Type} {c : Instr} {s : State} {p : Port} {tag : Byte} {q : Request} {k : Slot}
    (h : requestOf c = some (p, tag, q)) (a : s.Admits p tag q k) {check : Except Result α} {r : Result}
    {act : α → State} (hc : check = .error r)
    (kind : q.act p k (s.admitted p tag q k) = (s.admitted p tag q k).checked p k check act) :
    exec c s = .next ((s.admitted p tag q k).answer p k r) := by
  rw [exec_admitted h a, kind, State.checked_error hc]

/-- A request that passes the checks of its kind is carried out. -/
theorem exec_carried {α : Type} {c : Instr} {s : State} {p : Port} {tag : Byte} {q : Request} {k : Slot}
    (h : requestOf c = some (p, tag, q)) (a : s.Admits p tag q k) {check : Except Result α} {x : α}
    {act : α → State} (hc : check = .ok x)
    (kind : q.act p k (s.admitted p tag q k) = (s.admitted p tag q k).checked p k check act) {t : State}
    (ht : act x = t) : exec c s = .next t := by
  rw [exec_admitted h a, kind, State.checked_ok hc, ht]

/-! ### A byte that names no region (R2) -/

theorem State.existing_none {s : State} {b : Byte} (h : s.named b = none) : s.existing b = .error .noRegion := by
  unfold State.existing; rw [h]

theorem State.existing_some {s : State} {b : Byte} {n : RegionId} (h : s.named b = some n) : s.existing b = .ok n := by
  unfold State.existing; rw [h]

theorem State.inService_none {s : State} {b : Byte} (h : s.named b = none) : s.inService b = .error .noRegion := by
  unfold State.inService; rw [h]

theorem State.heldLease_none {s : State} {b : Byte} (h : s.named b = none) (p : Port) :
    s.heldLease p b = .error .notHolder := by
  unfold State.heldLease; rw [h]

theorem State.claimCheck_none {s : State} {b : Byte} (h : s.named b = none) (p : Port) :
    s.claimCheck p b = .error .noRegion := by
  unfold State.claimCheck; rw [h]

theorem State.watchCheck_none {s : State} {b : Byte} (h : s.named b = none) (p : Port) :
    s.watchCheck p b = .error .noRegion := by
  unfold State.watchCheck; rw [h]

/-- The epoch field of a flash request is read before its region is named (R12, R53). -/
theorem State.readCheck_none {s : State} {b : Byte} (h : s.named b = none) (p : Port) (o : Word) (n : Half)
    {e : EpochField} (he : epochOf e ≠ none) : s.readCheck p b o n e = .error .noRegion := by
  obtain ⟨x, hx⟩ := Option.ne_none_iff_exists'.mp he
  simp only [State.readCheck, hx, h]

theorem State.programCheck_none {s : State} {b : Byte} (h : s.named b = none) (p : Port) (o : Word) {f : Byte}
    {e : EpochField} (d : List Byte) (hf : verifyOf f ≠ none) (he : epochOf e ≠ none) :
    s.programCheck p b o f e d = .error .noRegion := by
  obtain ⟨v, hv⟩ := Option.ne_none_iff_exists'.mp hf
  obtain ⟨x, hx⟩ := Option.ne_none_iff_exists'.mp he
  simp only [State.programCheck, hv, hx, h]

theorem State.eraseCheck_none {s : State} {b : Byte} (h : s.named b = none) (p : Port) (f : Half) (n : Word)
    {e : EpochField} (he : epochOf e ≠ none) : s.eraseCheck p b f n e = .error .noRegion := by
  obtain ⟨x, hx⟩ := Option.ne_none_iff_exists'.mp he
  simp only [State.eraseCheck, hx, h]

theorem State.retireCheck_none {s : State} {b : Byte} (h : s.named b = none) {p : Port} (ha : s.admin = some p) :
    s.retireCheck p b = .error .noRegion := by
  simp [State.retireCheck, State.notAdmin, ha, State.inService_none h]

theorem State.rightsCheck_none {s : State} {b x y : Byte} (h : s.named b = none) {p : Port} (ha : s.admin = some p)
    (hx : rightsOf x ≠ none) (hy : rightsOf y ≠ none) : s.rightsCheck p b x y = .error .noRegion := by
  obtain ⟨r, hr⟩ := Option.ne_none_iff_exists'.mp hx
  obtain ⟨w, hw⟩ := Option.ne_none_iff_exists'.mp hy
  simp [State.rightsCheck, State.notAdmin, ha, hr, hw, State.inService_none h, Except.map]

/-- Settles O17: the checks of every kind that names a region begin with the naming, where they are the administrator's
or read an encoding after that. -/
theorem numbersBeyondTheTableAreFree : Obligations.NumbersBeyondTheTableAreFree := by
  intro s p tag b k q c free hc a
  have named : (s.admitted p tag q k).named b = none := State.named_none free
  have admin : (s.admitted p tag q k).admin = s.admin := rfl
  rw [exec_admitted hc a]
  generalize s.admitted p tag q k = u at named admin
  constructor
  · rintro (rfl | rfl | rfl | ⟨x, y, rfl⟩ | ⟨o, l, e, rfl, he⟩ | ⟨o, f, e, d, rfl, hf, he⟩ | ⟨x, y, e, rfl, he⟩ |
      ⟨ha, rfl | ⟨x, y, rfl, hx, hy⟩⟩) <;> simp only [Request.act]
    · rw [State.checked_error (State.existing_none named)]
    · rw [State.checked_error (State.watchCheck_none named p)]
    · rw [State.checked_error (State.existing_none named)]
    · rw [State.checked_error (State.claimCheck_none named p)]
    · rw [State.checked_error (State.readCheck_none named p o l he)]
    · rw [State.checked_error (State.programCheck_none named p o d hf he)]
    · rw [State.checked_error (State.eraseCheck_none named p x y he)]
    · rw [State.checked_error (State.retireCheck_none named (admin.trans ha))]
    · rw [State.checked_error (State.rightsCheck_none named (admin.trans ha) hx hy)]
  · rintro (⟨x, rfl⟩ | rfl) <;> simp only [Request.act] <;> rw [State.checked_error (State.heldLease_none named p)]

/-! ### Searches of the table -/

/-- A search of the table finds the lowest number that passes its test. -/
theorem find_allRegions {f : RegionId → Bool} {n : RegionId} (h : f n = true) (lower : ∀ m, m < n → f m = false) :
    allRegions.find? f = some n := by
  rw [List.find?_eq_some_iff_getElem]
  refine ⟨h, n.val, by simp [allRegions], by simp [allRegions], fun j hj => ?_⟩
  have := lower ⟨j, hj.trans n.isLt⟩ hj
  simpa [allRegions] using this

theorem find_allRegions_none {f : RegionId → Bool} : allRegions.find? f = none ↔ ∀ n, f n = false := by
  simp [List.find?_eq_none, mem_allRegions]

theorem any_allRegions {f : RegionId → Bool} : allRegions.any f = true ↔ ∃ n, f n = true := by
  simp [List.any_eq_true, mem_allRegions]

/-! ### The lookups (R13 to R16) -/

theorem length_padTo (n : Nat) (l : List Byte) : (padTo n l).length = n := by
  simp [padTo]

/-- A summary has 33 bytes (R13, R191). -/
theorem length_regionSummary (n : RegionId) (r : Region) : (regionSummary n r).length = 33 := by
  have holder : (if r.holder.isSome then halfOf r.remaining ++ halfOf (r.granted.getD 0) else
      halfOf 0 ++ halfOf 0).length = 4 := by split <;> rfl
  simp only [regionSummary, List.length_append, List.length_cons, List.length_nil, length_padTo, holder, wordBytes,
    show ∀ n, (halfOf n).length = 2 from fun _ => rfl, length_halfBytes]

theorem covers_iff {r : Region} {d : Dev} {sector : Nat} : r.covers d sector = true ↔
    r.state ≠ .free ∧ r.device = some d ∧ r.baseSector ≤ sector ∧ sector < r.baseSector + r.sectorCount := by
  simp [Region.covers, and_assoc]

theorem carries_iff {r : Region} {l : List Byte} : r.carries l = true ↔ r.state ≠ .free ∧ l ≠ [] ∧ r.label = l := by
  simp [Region.carries, and_assoc]

theorem labelOf_none {l : LabelField} (h : 8 < l.length.toNat) : labelOf l = none := if_neg (by omega)

theorem labelOf_some {l : LabelField} (h : l.length.toNat ≤ 8) :
    labelOf l = some (l.bytes.toList.take l.length.toNat) := if_pos h

/-- The label that a field carries is empty where its length is 0 (R190). -/
theorem label_eq_nil_iff (l : LabelField) : l.bytes.toList.take l.length.toNat = [] ↔ l.length = 0#8 := by
  rw [List.take_eq_nil_iff]
  have hb : l.bytes.toList ≠ [] := by
    intro e
    have := congrArg List.length e
    simp at this
  simp only [hb, or_false]
  exact ⟨fun h => BitVec.eq_of_toNat_eq h, fun h => by rw [h]; rfl⟩

/-- Settles O25: each search is answered with the lowest number that passes its test, or NO_REGION where none does. -/
theorem lookupsFindTheirRegion : Obligations.LookupsFindTheirRegion := by
  refine ⟨fun s p tag b k a => ⟨fun n hb hf => ⟨?_, rfl, length_regionSummary n _⟩, fun free => ?_⟩,
    fun s p tag device address k a => ⟨fun hd => ?_, fun d hd none => ?_, fun d n hd hf hn hlo hhi lower => ?_⟩,
    fun s p tag l k a => ⟨fun hl => ?_, fun hl none => ?_, fun n hl h0 hf hn lower => ?_⟩⟩
  · have check : (s.admitted p tag (.findNumber b) k).existing b = .ok n :=
      State.existing_some (State.named_some hb hf)
    exact exec_carried (q := .findNumber b) rfl a check rfl rfl
  · have check : (s.admitted p tag (.findNumber b) k).existing b = .error .noRegion :=
      State.existing_none (State.named_none free)
    exact exec_refused (q := .findNumber b) rfl a check rfl
  · have check : (s.admitted p tag (.findAddress device address) k).findAddress device address = .error .malformed := by
      simp only [State.findAddress, hd]
    exact exec_refused (q := .findAddress device address) rfl a check rfl
  · have check : (s.admitted p tag (.findAddress device address) k).findAddress device address = .error .noRegion := by
      have find := find_allRegions_none.mpr fun n => by
        rw [Bool.eq_false_iff, Ne, covers_iff (r := s.region n) (d := d) (sector := address.toNat / 4096)]
        rintro ⟨hf, hn, hlo, hhi⟩
        have := none n hf hn
        omega
      simp only [State.findAddress, hd, Config.sectorBytes, State.region_admitted, find]
    exact exec_refused (q := .findAddress device address) rfl a check rfl
  · have check : (s.admitted p tag (.findAddress device address) k).findAddress device address = .ok n := by
      have find := find_allRegions (covers_iff.mpr ⟨hf, hn, hlo, hhi⟩) lower
      simp only [State.findAddress, hd, Config.sectorBytes, State.region_admitted, find]
    exact exec_carried (q := .findAddress device address) rfl a check rfl rfl
  · have check : (s.admitted p tag (.findLabel l) k).findLabel l = .error .malformed := by
      simp only [State.findLabel, labelOf_none hl]
    exact exec_refused (q := .findLabel l) rfl a check rfl
  · have check : (s.admitted p tag (.findLabel l) k).findLabel l = .error .noRegion := by
      have find := find_allRegions_none.mpr fun n => by
        rw [Bool.eq_false_iff, Ne, carries_iff (r := s.region n) (l := l.bytes.toList.take l.length.toNat)]
        rintro ⟨hf, h0, hn⟩
        exact none.elim (fun h => h0 ((label_eq_nil_iff l).mpr h)) fun h => h n hf hn
      simp only [State.findLabel, labelOf_some hl, State.region_admitted, find]
    exact exec_refused (q := .findLabel l) rfl a check rfl
  · have check : (s.admitted p tag (.findLabel l) k).findLabel l = .ok n := by
      have find := find_allRegions
        (carries_iff.mpr ⟨hf, fun e => h0 ((label_eq_nil_iff l).mp e), hn⟩) lower
      simp only [State.findLabel, labelOf_some hl, State.region_admitted, find]
    exact exec_carried (q := .findLabel l) rfl a check rfl rfl

/-! ### DEFINE (R17, R19) -/

theorem overlaps_iff {r : Region} {d : Dev} {base count : Nat} : r.overlaps d base count = true ↔
    r.state ≠ .free ∧ r.device = some d ∧ r.baseSector < base + count ∧ base < r.baseSector + r.sectorCount := by
  simp [Region.overlaps, and_assoc]

/-- The checks of a DEFINE of the administrator whose fields are read (R17). -/
theorem State.defineChecks_some {s : State} {p : Port} (ha : s.admin = some p) (f : Definition) :
    s.defineChecks p (some f) = (s.defineCheck f).map fun n => (n, f) := by
  simp [State.defineChecks, State.notAdmin, ha]

/-- The checks of DEFINE read nothing that the taking of its frame writes. -/
theorem State.defineChecks_admitted {s : State} {p : Port} (ha : s.admin = some p) (tag : Byte) (q : Request)
    (k : Slot) (f : Definition) :
    (s.admitted p tag q k).defineChecks p (some f) = (s.defineCheck f).map fun n => (n, f) :=
  State.defineChecks_some (s := s.admitted p tag q k) ha f

/-- A DEFINE of the administrator with a field outside its encoding (R12). -/
theorem State.defineChecks_none {s : State} {p : Port} (ha : s.admin = some p) :
    s.defineChecks p none = .error .malformed := by
  simp [State.defineChecks, State.notAdmin, ha]

theorem definitionOf_none {device rr wr : Byte} {base term : Half} {count : Word} {label : LabelField}
    (h : devOf device = none ∨ 8 < label.length.toNat ∨ rightsOf rr = none ∨ rightsOf wr = none) :
    definitionOf device base count label rr wr term = none := by
  unfold definitionOf
  split
  · rename_i hd hl hr hw
    obtain h | h | h | h := h
    · rw [h] at hd; cases hd
    · rw [labelOf_none h] at hl; cases hl
    · rw [h] at hr; cases hr
    · rw [h] at hw; cases hw
  · rfl

theorem definitionOf_some {device rr wr : Byte} (base term : Half) (count : Word) {label : LabelField} {d : Dev}
    {l : List Byte} {r w : PortSet} (hd : devOf device = some d) (hl : labelOf label = some l)
    (hr : rightsOf rr = some r) (hw : rightsOf wr = some w) :
    definitionOf device base count label rr wr term =
      some ⟨d, base.toNat, count.toNat, l, r, w, term.toNat⟩ := by
  simp only [definitionOf, hd, hl, hr, hw]

/-- Settles O27: the branches of the check are those of R17, each with its test in the words of the table. -/
theorem defineIsCheckedAndWrites : Obligations.DefineIsCheckedAndWrites := by
  refine ⟨fun s p tag device rr wr base term count label k d l r w n q hq a ha hd hl hr hw hs h1 h2 h3 apart fresh hf
    lower => ?_, fun s p tag device rr wr base term count label k q hq a ha => ⟨fun bad => ?_,
    fun d hd hl hr hw => ?_⟩⟩
  · subst hq
    have range : ¬ (count.toNat = 0 ∨ 65536 < count.toNat ∨ (s.profile d).sectors < base.toNat + count.toNat) := by
      unfold Profile.sectors; omega
    have overlap : allRegions.any (fun m => (s.region m).overlaps d base.toNat count.toNat) = false := by
      rw [Bool.eq_false_iff, Ne, any_allRegions]
      rintro ⟨m, h⟩
      obtain ⟨hm, hd, hlo, hhi⟩ := overlaps_iff.mp h
      have := apart m hm hd
      omega
    have taken : allRegions.any (fun m => (s.region m).carries l) = false := by
      rw [Bool.eq_false_iff, Ne, any_allRegions]
      rintro ⟨m, h⟩
      obtain ⟨hm, hn, hl⟩ := carries_iff.mp h
      exact fresh.elim hn fun h => h m hm hl
    have slot : s.freeSlot = some n :=
      find_allRegions (by simp [hf]) fun m hm => by simpa using lower m hm
    have check : s.defineCheck ⟨d, base.toNat, count.toNat, l, r, w, term.toNat⟩ = .ok n := by
      simp only [State.defineCheck, hs, range, overlap, taken, slot, if_false, Bool.false_eq_true]
    have checks : (s.admitted p tag (.define device base count label rr wr term) k).defineChecks p
        (definitionOf device base count label rr wr term) =
          .ok (n, ⟨d, base.toNat, count.toNat, l, r, w, term.toNat⟩) := by
      rw [definitionOf_some base term count hd hl hr hw, State.defineChecks_admitted ha, check]
      rfl
    exact exec_carried (q := .define device base count label rr wr term) rfl a checks rfl rfl
  · subst hq
    refine exec_refused (q := .define device base count label rr wr term) rfl a ?_ rfl
    rw [definitionOf_none bad]
    exact State.defineChecks_none ha
  · subst hq
    obtain ⟨r, hr⟩ := Option.ne_none_iff_exists'.mp hr
    obtain ⟨w, hw⟩ := Option.ne_none_iff_exists'.mp hw
    have refused : ∀ {res : Result},
        s.defineCheck ⟨d, base.toNat, count.toNat, label.bytes.toList.take label.length.toNat, r, w, term.toNat⟩ =
          .error res →
        exec (.define p tag device base count label rr wr term) s =
          .next ((s.admitted p tag (.define device base count label rr wr term) k).answer p k res) := by
      intro res check
      refine exec_refused (q := .define device base count label rr wr term) rfl a ?_ rfl
      rw [definitionOf_some base term count hd (labelOf_some hl) hr hw, State.defineChecks_admitted ha, check]
      rfl
    have overlaps : allRegions.any (fun m => (s.region m).overlaps d base.toNat count.toNat) = true ↔
        ∃ m, (s.region m).state ≠ .free ∧ (s.region m).device = some d ∧
          (s.region m).baseSector < base.toNat + count.toNat ∧
          base.toNat < (s.region m).baseSector + (s.region m).sectorCount := by
      simp only [any_allRegions, overlaps_iff]
    have slot : (∀ m, (s.region m).state ≠ .free) → s.freeSlot = none := fun h =>
      find_allRegions_none.mpr fun m => by simpa using h m
    split_ifs with absent range overlap taken full
    · exact refused (by simp only [State.defineCheck, absent, if_true])
    · exact refused (by simp only [State.defineCheck, absent, Profile.sectors, range, if_true, if_false])
    · exact refused (by
        simp only [State.defineCheck, absent, Profile.sectors, range, overlaps, overlap, if_true, if_false])
    · exact refused (by
        simp only [State.defineCheck, absent, Profile.sectors, range, overlaps, overlap, any_allRegions, taken, if_true,
          if_false])
    · exact refused (by
        simp only [State.defineCheck, absent, Profile.sectors, range, overlaps, overlap, any_allRegions, taken,
          slot full, if_false])
    · rfl

end Sys2Proof.Machine
end

section
/-! What the end of an operation and of a sector step bring about: O42. -/

namespace Sys2Proof.Machine

/-! ### The order of the consequences (R178) -/

/-- Of the region numbers, rising, those of a rising list are that list. -/
theorem filter_allRegions {l : List RegionId} (h : l.Pairwise (· < ·)) :
    allRegions.filter (fun n => decide (n ∈ l)) = l := by
  have rising : allRegions.Pairwise (· < ·) := List.pairwise_lt_finRange _
  refine List.Perm.eq_of_pairwise' (r := (· < ·)) (rising.filter _) h ?_
  refine (List.perm_ext_iff_of_nodup ((List.nodup_finRange _).filter _) h.nodup).mpr fun n => ?_
  simp

/-- A fold over the region numbers goes, rising, through those at which it does something. -/
theorem foldl_allRegions {α : Type} {f : α → RegionId → α} {l : List RegionId} (h : l.Pairwise (· < ·))
    (idle : ∀ a, ∀ n ∉ l, f a n = a) (a : α) : allRegions.foldl f a = l.foldl f a := by
  have step : (fun a n => if decide (n ∈ l) = true then f a n else a) = f := by
    funext a n
    split
    · rfl
    · rename_i hn; exact (idle a n (by simpa using hn)).symm
  conv_rhs => rw [← filter_allRegions h, List.foldl_filter, step]

/-- What the ends of entries mean to one region (R75). -/
def State.reportAt (gone : List (EntryRef × Entry)) (s : State) (n : RegionId) : State :=
  gone.foldl (fun s x => if x.2.region == some n then s.entryGone x.1.port x.1.slot x.2 else s) s

/-- A region that none of the entries names hears nothing. -/
theorem State.reportAt_of_unnamed {gone : List (EntryRef × Entry)} {n : RegionId}
    (h : ∀ x ∈ gone, x.2.region ≠ some n) (s : State) : s.reportAt gone n = s := by
  unfold State.reportAt
  induction gone with
  | nil => rfl
  | cons x gone ih =>
    rw [List.foldl_cons, if_neg (by simpa using h x (List.mem_cons_self ..))]
    exact ih fun y hy => h y (List.mem_cons_of_mem _ hy)

/-- The consequences of ends come by rising number of the regions that the entries name (R178), and their answers in
admission order (R144). -/
theorem State.reportEnds_eq {gone : List (EntryRef × Entry)} {l : List RegionId} (h : l.Pairwise (· < ·))
    (named : ∀ x ∈ gone, ∀ n, x.2.region = some n → n ∈ l) (s : State) :
    s.reportEnds gone = s.regroup (l.foldl (State.reportAt gone) s) := by
  have := foldl_allRegions (f := State.reportAt gone) h
    (fun s n hn => State.reportAt_of_unnamed (fun x hx e => hn (named x hx n e)) s) s
  rw [← this]
  rfl

/-- The end of a started operation is reported (R75). -/
theorem State.entryGone_of_running {e : Entry} {n : RegionId} (hn : e.region = some n) (hr : e.state.running = true)
    (s : State) (p : Port) (k : Slot) : s.entryGone p k e = s.operationEnded p k n e.isWrite := by
  unfold State.entryGone
  rw [hn]
  exact if_pos hr

/-! ### Answers in admission order (R144) -/

theorem State.exch_regroup (s t : State) (p : Port) : (s.regroup t).exch p = (s.exch p).regroup (t.exch p) := by
  cases p <;> rfl

theorem State.answers_regroup (s t : State) (p : Port) :
    ((s.regroup t).exch p).answers = (s.exch p).answers ++
      (t.exch p).order.filter (fun k => decide (k ∈ (t.exch p).answers ∧ k ∉ (s.exch p).answers)) := by
  rw [State.exch_regroup]
  simp [Exchange.regroup]

/-! ### The ends of entries and of sector steps (R70, R72, R74) -/

theorem State.endEntry_of_draining {s : State} {p : Port} {k : Slot} (h : (s.entry p k).state = .draining) (x : Result)
    (v : Values) (b : Option (List Byte)) : s.endEntry p k x v b = s.vacate p k := by
  unfold State.endEntry
  rw [if_pos (by simp [h])]

theorem State.endEntry_of_not_draining {s : State} {p : Port} {k : Slot} (h : (s.entry p k).state ≠ .draining)
    (x : Result) (v : Values) (b : Option (List Byte)) : s.endEntry p k x v b = s.answer p k x v b := by
  unfold State.endEntry
  rw [if_neg (by simpa using h)]

theorem State.entry_vacate_same (s : State) (p : Port) (k : Slot) : (s.vacate p k).entry p k = Entry.vacant := by
  unfold State.entry State.vacate
  rw [State.exch_setExch_same]
  exact (Exchange.entry_put (s.exch p) k k Entry.vacant).trans (if_pos rfl)

/-- The state in which one more step of a range is counted (R70). -/
def State.stepCounted (s : State) (r : EntryRef) : State :=
  s.setEntry r.port r.slot { s.entry r.port r.slot with progress := (s.entry r.port r.slot).progress + 1 }

/-- Below its count a range yields (R70). -/
theorem State.sectorStepCompleted_yields {s : State} {r : EntryRef}
    (h : (s.entry r.port r.slot).progress + 1 < (s.entry r.port r.slot).eraseCount) (d : Dev) :
    s.sectorStepCompleted d r = ((s.stepCounted r).setSeq d ((s.seq d).idled r.port)).selectIdle d := by
  unfold State.sectorStepCompleted
  exact if_pos h

/-- At its count a range ends, with the result of its stop request (R70, R72). -/
theorem State.sectorStepCompleted_ends {s : State} {r : EntryRef}
    (h : (s.entry r.port r.slot).eraseCount ≤ (s.entry r.port r.slot).progress + 1) (d : Dev) :
    s.sectorStepCompleted d r =
      (s.stepCounted r).endOperation d r (s.entry r.port r.slot).stop.result .none none := by
  unfold State.sectorStepCompleted
  exact if_neg (Nat.not_lt.mpr h)

/-- Settles O42: the ends of one action are reported by rising region number, each region's part by the lemma on that
order; a sector step is decided by the range's count. -/
theorem operationsAndStepsEnd : Obligations.OperationsAndStepsEnd := by
  refine ⟨?ends, ⟨?one, ?two, ?order⟩, ?step⟩
  case ends =>
    intro s d r x v b u hu
    subst hu
    refine ⟨rfl, fun ha => ?_, fun hd => ⟨?_, s.entry_vacate_same ..⟩⟩
    · exact State.endEntry_of_not_draining (by rw [ha]; decide) x v b
    · exact State.endEntry_of_draining hd x v b
  case one =>
    intro s r e n hn hr
    rw [State.reportEnds_eq (l := [n]) (by simp) (by simp [hn, eq_comm])]
    simp only [List.foldl_cons, List.foldl_nil, State.reportAt, hn, beq_self_eq_true, if_true,
      State.entryGone_of_running hn hr]
  case two =>
    intro s r₁ r₂ e₁ e₂ m n hm hn hlt h₁ h₂
    have apart : (some m == some n) = false := by simpa using hlt.ne'
    have apart' : (some n == some m) = false := by simpa using hlt.ne
    rw [State.reportEnds_eq (l := [n, m]) (by simpa using hlt) (by simp [hm, hn, eq_comm])]
    simp only [List.foldl_cons, List.foldl_nil, State.reportAt, hm, hn, beq_self_eq_true, if_true, apart, apart',
      Bool.false_eq_true, if_false, State.entryGone_of_running hm h₁, State.entryGone_of_running hn h₂]
  case order => exact fun s t p => ⟨s.answers_regroup t p, s.entry_regroup t p, rfl⟩
  case step =>
    intro s d r b f c e u hreq hu
    have count : (s.entry r.port r.slot).eraseCount = c.toNat := by
      unfold Entry.eraseCount; rw [hreq]
    refine ⟨fun h => ?_, fun h => ?_⟩
    · rw [State.sectorStepCompleted_yields (count ▸ h), hu]
      rfl
    · rw [State.sectorStepCompleted_ends (count ▸ h), hu]
      refine ⟨fun hs => ?_, fun hs => ?_, fun hs => ?_, fun hs => ?_⟩ <;> rw [hs] <;> rfl

end Sys2Proof.Machine
end

section
/-! The ends of leases: the bookkeeping and the hand-over (R37, R38), and the lease expiry (R42, R43): O8 and O7. -/

namespace Sys2Proof.Machine

/-! ### The bookkeeping and the hand-over, record by record -/

theorem PortSet.has_erase (x : PortSet) (p q : Port) : (x.erase p).has q = (x.has q && !(q == p)) := by
  cases p <;> cases q <;> simp [PortSet.erase, PortSet.has]

/-- The end of a dirty lease is posted to the watching ports but the ex-holder (R37). -/
theorem State.noticeList_leaseEnd (s : State) (n : RegionId) (ex q : Port) (rel : Option Slot) :
    (s.leaseEnd n ex rel).noticeList q =
      if (s.region n).dirty = true ∧ (s.region n).watch.has q = true ∧ q ≠ ex then
        postTo ⟨n, .changed, (s.region n).nextGeneration⟩ (s.noticeList q)
      else s.noticeList q := by
  have posted : (s.leaseEnd n ex rel).noticeList q = (s.postChanged n ex).noticeList q :=
    State.noticeList_of_notices (by unfold State.leaseEnd; simp) q
  rw [posted]
  unfold State.postChanged
  by_cases hd : (s.region n).dirty = true
  · rw [if_pos hd, State.noticeList_postSet, PortSet.has_erase]
    simp [hd]
  · rw [if_neg hd, if_neg (fun h => hd h.1)]

theorem State.entry_answerGranted (s : State) (head : Option ClaimRecord) (t : Nat) (g : Half) (q : Port) (j : Slot) :
    (s.answerGranted head t g).entry q j =
      if ∃ c, head = some c ∧ q = c.port ∧ j = c.slot then (s.entry q j).answered .done (.claim t g) none
      else s.entry q j := by
  cases head with
  | none => simp [State.answerGranted]
  | some c => simp [State.answerGranted, State.entry_answer]

/-- The end of a lease answers the RELEASE that ended it, and then the claim that is granted (R37, R38). -/
theorem State.entry_leaseEnd (s : State) (n : RegionId) (ex q : Port) (rel : Option Slot) (j : Slot) :
    (s.leaseEnd n ex rel).entry q j =
      let e := if q = ex ∧ rel = some j then
        (s.entry q j).answered .done (.generation (s.region n).nextGeneration) none else s.entry q j
      if ∃ c, (s.region n).queue.head? = some c ∧ q = c.port ∧ j = c.slot then
        e.answered .done (.claim ((s.region n).leaseOver s.settings).remaining (s.region n).nextGeneration) none
      else e := by
  unfold State.leaseEnd
  rw [State.entry_setRegion, State.entry_answerGranted, State.entry_answerWhere,
    State.entry_of_exchs (s.exchs_postChanged n ex)]

/-- The RELEASE that ended the lease is answered with the generation, whoever is granted the region (R37, R137). -/
theorem State.entry_leaseEnd_release (s : State) (n : RegionId) (ex : Port) (k : Slot) :
    (s.leaseEnd n ex (some k)).entry ex k =
      (s.entry ex k).answered .done (.generation (s.region n).nextGeneration) none := by
  rw [State.entry_leaseEnd]
  simp

/-- The claim that is granted is answered with its term and the generation (R38). -/
theorem State.entry_leaseEnd_granted {s : State} {n : RegionId} {c : ClaimRecord} {rest : List ClaimRecord}
    (hq : (s.region n).queue = c :: rest) {ex : Port} {rel : Option Slot} (hr : c.port = ex → rel ≠ some c.slot) :
    (s.leaseEnd n ex rel).entry c.port c.slot =
      (s.entry c.port c.slot).answered .done
        (.claim (grantedTerm s.settings (s.region n).defaultTerm c.term) (s.region n).nextGeneration) none := by
  rw [State.entry_leaseEnd, Region.leaseOver_cons hq]
  have apart : ¬ (c.port = ex ∧ rel = some c.slot) := fun h => hr h.1 h.2
  simp [hq, apart]

/-- An entry that is not an ERASE is answered with the values of its answer and keeps its payload (R66, R144). -/
theorem Entry.answered_of_waiting {e : Entry} (hs : e.state = .waiting) (he : e.isErase = false) (r : Result)
    (v : Values) : e.answered r v none = { e with state := .answered, result := some r, values := v } := by
  rw [Entry.answered_of_open (by rw [hs]; rfl)]
  simp [he]

/-- Settles O8: each record that the end of a lease reaches, by the lemma on that record. -/
theorem leaseEndBooksAndHandsOver : Obligations.LeaseEndBooksAndHandsOver := by
  intro s n ex rel t g ht hg
  have next : (s.region n).nextGeneration = g := hg.symm
  subst ht
  refine ⟨s.leaseEnd_work n ex rel, fun m hm => ?_, fun q => ?_, fun hq => ?_, fun c rest term hq hterm => ⟨?_, ?_⟩,
    fun k hk hs he => ?_, fun q j hrel hhead => ?_⟩
  · rw [State.region_leaseEnd, if_neg hm]
  · rw [State.noticeList_leaseEnd, next]
  · rw [State.region_leaseEnd, if_pos rfl, Region.leaseOver_nil hq, next]
    rfl
  · rw [State.region_leaseEnd, if_pos rfl, Region.leaseOver_cons hq, next, hterm]
    rfl
  · intro hr hs he
    rw [State.entry_leaseEnd_granted hq hr, Entry.answered_of_waiting hs he, next, hterm]
  · rw [hk, State.entry_leaseEnd_release, Entry.answered_of_waiting hs he, next]
  · have ended : ¬ (q = ex ∧ rel = some j) := fun h => hrel h.1 h.2
    have granted : ¬ ∃ c, (s.region n).queue.head? = some c ∧ q = c.port ∧ j = c.slot :=
      fun ⟨c, hc, hp, hj⟩ => hhead c hc hp.symm hj.symm
    rw [State.entry_leaseEnd, if_neg ended, if_neg granted]

/-! ### The lease expiry -/

/-- A lease expiry is due on a LEASED region with nothing remaining, and is a lease loss of its holder (R43). -/
theorem exec_leaseExpiry {s : State} {n : RegionId} {p : Port} (hr : s.resetn = true)
    (hs : (s.region n).state = .leased) (h0 : (s.region n).remaining = 0) (hp : (s.region n).holder = some p) :
    exec (.leaseExpiry n) s = .next (s.leaseLoss n p false) := by
  have due : (s.resetn && s.leaseExpired n) = true := by simp [hr, State.leaseExpired, hs, h0]
  have loss : s.leaseExpiry n = s.leaseLoss n p false := by unfold State.leaseExpiry; rw [hp]
  rw [← loss]
  exact whenDue_true (effect := fun s => s.leaseExpiry n) due

/-- The RELEASE that waits for a lease waits as an entry of its holder (R143). -/
theorem State.WaitsReferred.release_waiting {s : State} (w : s.WaitsReferred) {n : RegionId} {p : Port}
    (hp : (s.region n).holder = some p) {k : Slot} (hk : (s.region n).release = some k) :
    (s.entry p k).state = .waiting := by
  obtain ⟨q, hq, ⟨hs, -⟩, -⟩ := w.releases n k hk
  cases hp.symm.trans hq
  exact hs

theorem Entry.queuedWriteOn_state {e : Entry} {n : RegionId} (h : e.queuedWriteOn n = true) : e.state = .queued := by
  simp only [Entry.queuedWriteOn, Bool.and_eq_true, beq_iff_eq] at h
  exact h.1.1

theorem Entry.activeRangeOn_state {e : Entry} {n : RegionId} (h : e.activeRangeOn n = true) : e.state = .active := by
  simp only [Entry.activeRangeOn, Bool.and_eq_true, beq_iff_eq] at h
  exact h.1.1

/-- An entry that is not VACANT stands in the admission order of its port (R134). -/
theorem State.mem_order_of_form {s : State} {p : Port} {k : Slot} (w : (s.exch p).WellFormed)
    (h : (s.entry p k).state ≠ .vacant) : k ∈ (s.exch p).order := (w.orderLists k).mpr h

/-- What does not wait fares in a lease loss as the holder's own requests do: no claim is granted to it (R38, R42). -/
theorem State.WaitsReferred.entry_leaseLoss {s : State} (w : s.WaitsReferred) {n : RegionId} {p q : Port} {j : Slot}
    (h : (s.entry q j).state ≠ .waiting) : (s.leaseLoss n p false).entry q j = (s.leaseLost n p).entry q j :=
  State.entry_leaseLoss_of_unclaimed (w.unclaimed n (.inl h))

/-- Settles O7: the expiry is the loss of the lease, told to the holder's own requests first; each entry is a queued
write, an active range, or neither. -/
theorem leaseExpiryIsALeaseLoss : Obligations.LeaseExpiryIsALeaseLoss := by
  intro s n p hr hs h0 hp form waits
  have release : ∀ {k}, (s.region n).release = some k → (s.entry p k).state = .waiting :=
    fun hk => waits.release_waiting hp hk
  refine ⟨_, exec_leaseExpiry hr hs h0 hp, fun k hk => ?_, fun k hk hstop => ?_, s.noticeList_leaseLoss_ex n p, ?_,
    fun m hm => ?_, fun q j hw own => ?_, s.leaseLoss_work n p false⟩
  · have queued := Entry.queuedWriteOn_state hk
    rw [waits.entry_leaseLoss (by rw [queued]; decide), State.entry_leaseLost_answered
      (.inl ⟨State.mem_order_of_form (form p) (by rw [queued]; decide), hk⟩) (by rw [queued]; decide)]
    exact Entry.answered_result (by rw [queued]; rfl) _ _ _
  · have active := Entry.activeRangeOn_state hk
    have unreleased : (s.region n).release ≠ some k := fun h => by
      have := release h
      rw [active] at this
      cases this
    rw [waits.entry_leaseLoss (by rw [active]; decide), State.entry_leaseLost_range
      (State.mem_order_of_form (form p) (by rw [active]; decide)) hk unreleased,
      Entry.stopRequested_of_active active hstop]
  · rw [State.region_leaseLoss, if_pos rfl, if_neg Bool.false_ne_true,
      State.writeInProgress_leaseLost fun j hj => by rw [release hj]; decide]
  · rw [State.region_leaseLoss, if_neg hm]
  · rw [waits.entry_leaseLoss hw]
    by_cases hq : q = p
    · subst hq
      exact State.entry_leaseLost_of_other (own rfl).1 (fun h => hw (release h.2)) (own rfl).2
    · rw [State.entry_leaseLost, if_neg hq]

end Sys2Proof.Machine
end

section
/-! The lease requests CLAIM, RENEW and RELEASE (R27 to R31, R35, R39): O18, O19, O20 and O21. -/

namespace Sys2Proof.Machine

/-! ### CLAIM -/

@[simp] theorem State.leaseCount_admitted (s : State) (p r : Port) (tag : Byte) (q : Request) (k : Slot) :
    (s.admitted p tag q k).leaseCount r = s.leaseCount r := rfl

/-- The checks of CLAIM on a named region, in order (R29). -/
theorem State.claimCheck_some {s : State} {b : Byte} {n : RegionId} (h : s.named b = some n) (p : Port) :
    s.claimCheck p b =
      if (s.region n).state = .retiring then .error .retired
      else if (s.region n).writeRights.has p = false then .error .noRight
      else if (s.region n).holder = some p then .error .alreadyHolder
      else if (s.region n).queue.any (fun c => c.port == p) = true then .error .alreadyWaiting
      else if 4 ≤ s.leaseCount p then .error .leaseLimit
      else .ok n := by
  unfold State.claimCheck
  rw [h]
  dsimp only
  generalize (s.region n).writeRights.has p = right
  cases right <;> rfl

/-- A CLAIM that no check of R29 refuses. -/
theorem State.claimCheck_passes {s : State} {b : Byte} {n : RegionId} {p : Port} (h : s.named b = some n)
    (hr : (s.region n).state ≠ .retiring) (hw : (s.region n).writeRights.has p = true)
    (hh : (s.region n).holder ≠ some p) (hq : ∀ c ∈ (s.region n).queue, c.port ≠ p) (hl : s.leaseCount p < 4) :
    s.claimCheck p b = .ok n := by
  have unqueued : ¬ (s.region n).queue.any (fun c => c.port == p) = true := by simpa using hq
  rw [State.claimCheck_some h, if_neg hr, if_neg (by simp [hw]), if_neg hh, if_neg unqueued, if_neg (by omega)]

/-- A CLAIM that passes its checks is carried out in its admission action (R30, R31). -/
theorem exec_claim_accepted {s : State} {p : Port} {tag b : Byte} {term wait : Half} {k : Slot} {n : RegionId}
    (a : s.Admits p tag (.claim b term wait) k) (check : s.claimCheck p b = .ok n) :
    exec (.claim p tag b term wait) s =
      .next ((s.admitted p tag (.claim b term wait) k).claimAccepted p k n term wait) :=
  exec_carried (q := .claim b term wait) rfl a check rfl rfl

/-- A CLAIM that fails a check is answered with the refusal (R11, R29). -/
theorem exec_claim_refused {s : State} {p : Port} {tag b : Byte} {term wait : Half} {k : Slot} {r : Result}
    (a : s.Admits p tag (.claim b term wait) k) (check : s.claimCheck p b = .error r) :
    exec (.claim p tag b term wait) s = .next ((s.admitted p tag (.claim b term wait) k).answer p k r) :=
  exec_refused (q := .claim b term wait) rfl a check rfl

/-- On an OPEN region a CLAIM is granted (R30). -/
theorem State.claimAccepted_of_opened {s : State} {n : RegionId} (h : (s.region n).state = .opened) (p : Port)
    (k : Slot) (term wait : Half) : s.claimAccepted p k n term wait = s.grant n p k term.toNat := if_pos h

/-- On a region in use a CLAIM without a wait, or before a full queue, is HELD (R31). -/
theorem State.claimAccepted_held {s : State} {n : RegionId} {wait : Half} (h : (s.region n).state ≠ .opened)
    (hw : wait = 0#16 ∨ 2 ≤ (s.region n).queue.length) (p : Port) (k : Slot) (term : Half) :
    s.claimAccepted p k n term wait = s.answer p k .held := by
  unfold State.claimAccepted
  dsimp only
  rw [if_neg h]
  by_cases h0 : wait = 0#16
  · rw [if_pos h0]
  · rw [if_neg h0]
    exact if_pos (hw.resolve_left h0)

/-- On a region in use a CLAIM with a wait joins a queue that is not full, at the tail (R31). -/
theorem State.claimAccepted_waits {s : State} {n : RegionId} {wait : Half} (h : (s.region n).state ≠ .opened)
    (hw : wait ≠ 0#16) (hq : (s.region n).queue.length < 2) (p : Port) (k : Slot) (term : Half) :
    s.claimAccepted p k n term wait = s.setRegion n { s.region n with
      queue := (s.region n).queue ++ [{ port := p, term := term.toNat, wait := wait.toNat, slot := k }] } := by
  unfold State.claimAccepted
  dsimp only
  rw [if_neg h, if_neg hw]
  exact if_neg (Nat.not_le.mpr hq)

/-- An OPEN region has no holder (R6, R25). -/
theorem Region.WellFormed.unheld {r : Region} (w : r.WellFormed) (h : r.state = .opened) : r.holder = none := by
  have := w.holderWhen
  rw [h] at this
  exact Option.not_isSome_iff_eq_none.mp (by rw [this]; decide)

/-- Both settings that a granted term is read from are positive and fit 16 bits (R181). -/
theorem Settings.inRange.terms {x : Settings} (h : x.inRange) :
    (1 ≤ x.defaultTerm ∧ x.defaultTerm ≤ 65535) ∧ 1 ≤ x.maxTerm ∧ x.maxTerm ≤ 65535 := by
  have hd := h 0 x.defaultTerm rfl
  have hm := h 1 x.maxTerm rfl
  simp only [settingAccepts, settingRange, Fin.isValue, Fin.val_zero, Fin.val_one, Bool.and_eq_true,
    decide_eq_true_eq] at hd hm
  omega

/-- Settles O18: the checks of R29 pass, the region is OPEN, and the term is the first of the three that R27 names. -/
theorem claimIsGrantedOnAnOpenRegion : Obligations.ClaimIsGrantedOnAnOpenRegion := by
  refine ⟨fun s p tag b term wait k n granted a hb ho hw form hl hg => ?_, fun x default requested => ?_⟩
  · have unheld := form.unheld ho
    have empty := form.queueWhen (.inr (.inl ho))
    have check : s.claimCheck p b = .ok n :=
      State.claimCheck_passes (State.named_some hb (by rw [ho]; decide)) (by rw [ho]; decide) hw (by simp [unheld])
        (by simp [empty]) hl
    refine ⟨empty, ?_⟩
    rw [exec_claim_accepted a check,
      State.claimAccepted_of_opened (s := s.admitted p tag (.claim b term wait) k) ho, hg]
    rfl
  · refine ⟨fun h => ?_, fun h hd => ?_, fun h hd => ?_, fun hx hr hd => ?_⟩
    · simp [grantedTerm, h]
    · simp [grantedTerm, h, hd]
    · simp [grantedTerm, h, hd]
    · obtain ⟨⟨hd1, hd2⟩, hm1, hm2⟩ := hx.terms
      unfold grantedTerm
      split_ifs <;> omega

/-- Settles O19: the two outcomes on a region in use, and the chain of the checks. -/
theorem claimWaitsOrIsRefused : Obligations.ClaimWaitsOrIsRefused := by
  refine ⟨fun s p tag b term wait k n a hb hs hw hh hq hl => ?_, fun s p tag b term wait k n a hb hf => ?_⟩
  · have used : (s.region n).state ≠ .free ∧ (s.region n).state ≠ .retiring ∧ (s.region n).state ≠ .opened := by
      obtain h | h | h := hs <;> rw [h] <;> decide
    obtain ⟨free, retiring, opened⟩ := used
    have check : s.claimCheck p b = .ok n :=
      State.claimCheck_passes (State.named_some hb free) retiring hw hh hq hl
    rw [exec_claim_accepted a check]
    refine ⟨fun h => ?_, fun h0 h2 => ?_⟩
    · rw [State.claimAccepted_held (s := s.admitted p tag (.claim b term wait) k) opened h]
    · rw [State.claimAccepted_waits (s := s.admitted p tag (.claim b term wait) k) opened h0 h2]
      rfl
  · have chain := State.claimCheck_some (State.named_some hb hf) p
    split_ifs at chain ⊢
    · exact exec_claim_refused a chain
    · exact exec_claim_refused a chain
    · exact exec_claim_refused a chain
    · exact exec_claim_refused a chain
    · exact exec_claim_refused a chain
    · rfl

/-! ### RENEW and RELEASE -/

/-- RENEW and RELEASE act on a LEASED region of the requesting port (R35, R39). -/
theorem State.heldLease_held {s : State} {b : Byte} {n : RegionId} {p : Port} (hb : regionOf b = some n)
    (hs : (s.region n).state = .leased) (hp : (s.region n).holder = some p) : s.heldLease p b = .ok n := by
  unfold State.heldLease
  rw [State.named_some hb (by rw [hs]; decide)]
  exact if_pos ⟨hs, hp⟩

/-- The region that a byte names is the slot of its number (R2). -/
theorem State.regionOf_of_named {s : State} {b : Byte} {n : RegionId} (h : s.named b = some n) :
    regionOf b = some n := by
  unfold State.named at h
  cases hb : regionOf b with
  | none => rw [hb] at h; cases h
  | some m =>
    simp only [hb] at h
    split at h
    · cases h
    · exact h

/-- Any other number is answered NOT_HOLDER (R35, R39). -/
theorem State.heldLease_unheld {s : State} {b : Byte} {p : Port}
    (h : ∀ n, regionOf b = some n → (s.region n).state ≠ .leased ∨ (s.region n).holder ≠ some p) :
    s.heldLease p b = .error .notHolder := by
  cases hn : s.named b with
  | none => exact State.heldLease_none hn p
  | some n =>
    unfold State.heldLease
    rw [hn]
    exact if_neg fun ⟨hs, hp⟩ => (h n (State.regionOf_of_named hn)).elim (· hs) (· hp)

/-- Settles O20: the two outcomes of the naming of a held lease. -/
theorem renewSetsAFreshTerm : Obligations.RenewSetsAFreshTerm := by
  intro s p tag b term k a
  refine ⟨fun n hb hs hp => ?_, fun h => ?_⟩
  · have check : (s.admitted p tag (.renew b term) k).heldLease p b = .ok n := State.heldLease_held hb hs hp
    exact exec_carried (q := .renew b term) rfl a check rfl rfl
  · have check : (s.admitted p tag (.renew b term) k).heldLease p b = .error .notHolder := State.heldLease_unheld h
    exact exec_refused (q := .renew b term) rfl a check rfl

/-- A frame that is taken stands WAITING, so it adds nothing outstanding (R39). -/
theorem State.Admits.outstandingFor {s : State} {p : Port} {tag : Byte} {q : Request} {k : Slot}
    (h : s.Admits p tag q k) (n : RegionId) :
    (s.admitted p tag q k).outstandingFor p n = s.outstandingFor p n := by
  have order : ((s.admitted p tag q k).exch p).order = (s.exch p).order ++ [k] := by
    rw [State.exch_admitted]; rfl
  unfold State.outstandingFor State.slotsWhere
  rw [order, List.filter_append, List.filter_cons_of_neg (by simp [State.entry_admitted_same]), List.filter_nil,
    List.append_nil]
  refine List.filter_congr fun j _ => ?_
  rw [State.entry_admitted]
  split
  · rename_i hj
    simp only [hj.2, h.vacant_entry]
    rfl
  · rfl

/-- Settles O21: the two outcomes of the naming of a held lease, and of the outstanding entries. -/
theorem releaseEndsOrFreezesTheLease : Obligations.ReleaseEndsOrFreezesTheLease := by
  intro s p tag b k a
  refine ⟨fun n out hb hs hp hout => ?_, fun h => ?_⟩
  · have check : (s.admitted p tag (.release b) k).heldLease p b = .ok n := State.heldLease_held hb hs hp
    have outstanding : (s.admitted p tag (.release b) k).outstandingFor p n = out := by
      rw [a.outstandingFor, hout]
      rfl
    refine ⟨fun hnil => ?_, fun hne => ?_⟩
    · refine exec_carried (q := .release b) rfl a check rfl ?_
      unfold State.released
      simp only [outstanding, hnil, List.isEmpty_nil, if_true]
    · refine exec_carried (q := .release b) rfl a check rfl ?_
      unfold State.released
      simp only [outstanding, List.isEmpty_iff, hne, if_false]
      rfl
  · have check : (s.admitted p tag (.release b) k).heldLease p b = .error .notHolder := State.heldLease_unheld h
    exact exec_refused (q := .release b) rfl a check rfl

end Sys2Proof.Machine
end

section
/-! The ticks, the wait expiry and CANCEL (R26, R33, R34, R147): O6 and O35. -/

namespace Sys2Proof.Machine

/-! ### The ticks and the wait expiry -/

theorem State.region_msTick (s : State) (n : RegionId) : s.msTick.region n = (s.region n).msTick := by
  simp only [State.region, State.msTick, Fin.getElem_fin, Vector.getElem_map]

theorem State.seq_usTick (s : State) (d : Dev) : s.usTick.seq d = (s.seq d).usTick := by
  cases d <;> rfl

/-- The claim record of a port leaves the queue and its CLAIM is answered (R24, R33, R34). -/
theorem State.dropClaim_some {s : State} {n : RegionId} {p : Port} {c : ClaimRecord}
    (h : (s.region n).claimOf p = some c) (r : Result) :
    s.dropClaim n p r = (s.setRegion n ((s.region n).withoutClaim p)).answer p c.slot r := by
  unfold State.dropClaim
  rw [h]

/-- Settles O6: the two ticks at one record each, and the wait expiry as the dropping of a claim. -/
theorem ticksAndWaitExpiries : Obligations.TicksAndWaitExpiries := by
  refine ⟨fun s hr => ⟨⟨s.msTick, whenDue_true hr, rfl, fun n => ?_⟩, ⟨s.usTick, whenDue_true hr, rfl, fun d => ?_⟩⟩,
    fun s n p c hr hc hw => ?_⟩
  · rw [State.region_msTick]
    simp only [Region.msTick, beq_iff_eq]
  · rw [State.seq_usTick]
    simp only [Sequencer.usTick, Bool.or_eq_true, beq_iff_eq]
  · have claim : (s.region n).claimOf p = some c := hc
    have due : (s.resetn && s.waitExpired n p) = true := by simp [hr, State.waitExpired, claim, hw]
    have dropped := State.dropClaim_some claim .waitExpired
    calc exec (.waitExpiry n p) s = .next (s.dropClaim n p .waitExpired) :=
          whenDue_true (effect := fun s => s.dropClaim n p .waitExpired) due
      _ = _ := by rw [dropped]; rfl

/-! ### CANCEL -/

/-- An entry that holds a tag is not VACANT (R136, R140). -/
theorem EntryState.not_vacant_of_holdsTag {x : EntryState} (h : x.holdsTag = true) : x ≠ .vacant := by
  rintro rfl
  cases h

/-- The tag of a CANCEL that no entry of the port holds has no target (R147). -/
theorem State.cancelTarget_admitted_none {s : State} {p : Port} {target : Byte}
    (h : (s.exch p).tagHeld target = false) (tag : Byte) (q : Request) (k : Slot) :
    (s.admitted p tag q k).cancelTarget p k target = none := by
  refine List.find?_eq_none.mpr fun j hj => ?_
  have free := List.any_eq_false.mp h j hj
  by_cases hjk : j = k
  · simp [hjk]
  · rw [State.entry_admitted, if_neg fun e => hjk e.2, Bool.and_assoc, Bool.and_eq_true]
    exact fun e => free e.2

/-- The one entry of the port that holds the tag is the target (R140, R147). -/
theorem State.Admits.cancelTarget_some {s : State} {p : Port} {tag target : Byte} {q : Request} {k j : Slot}
    (a : s.Admits p tag q k) (w : (s.exch p).WellFormed) (hs : (s.entry p j).state.holdsTag = true)
    (ht : (s.entry p j).tag = some target) : (s.admitted p tag q k).cancelTarget p k target = some j := by
  have stands : (s.entry p j).state ≠ .vacant := EntryState.not_vacant_of_holdsTag hs
  have other : j ≠ k := fun h => a.other stands ⟨rfl, h⟩
  have meets : (!(j == k) && ((s.admitted p tag q k).entry p j).state.holdsTag &&
      ((s.admitted p tag q k).entry p j).tag == some target) = true := by
    rw [a.entry_admitted stands]
    simp [other, hs, ht]
  cases hc : (s.admitted p tag q k).cancelTarget p k target with
  | none => exact absurd meets (List.find?_eq_none.mp hc j (mem_allSlots j))
  | some i =>
    have found := List.find?_some hc
    simp only [Bool.and_eq_true, Bool.not_eq_true', beq_eq_false_iff_ne, ne_eq, beq_iff_eq] at found
    obtain ⟨⟨hik, hi⟩, hit⟩ := found
    rw [State.entry_admitted, if_neg fun e => hik e.2] at hi hit
    by_contra hne
    exact w.tagsApart i j (fun e => hne (by rw [e])) hi hs (hit.trans ht.symm)

/-- What a CANCEL does to its target (R147). -/
theorem State.cancelled_target {s : State} {p : Port} {k j : Slot} {target : Byte}
    (h : s.cancelTarget p k target = some j) :
    s.cancelled p k target =
      if (s.entry p j).state = .queued then s.cancelQueued p k j
      else if (s.entry p j).state = .waiting ∧ (s.entry p j).isClaim then s.cancelClaim p k j
      else if (s.entry p j).state = .active ∧ (s.entry p j).isErase ∧ (s.entry p j).stop = .none then
        (s.requestStop p j .cancel).answer p k .done
      else s.answer p k .tooLate := by
  unfold State.cancelled
  rw [h]

theorem State.requestStop_of_active {s : State} {p : Port} {k : Slot} (h : (s.entry p k).state = .active)
    (hs : (s.entry p k).stop = .none) (x : StopRequest) :
    s.requestStop p k x = s.setEntry p k { s.entry p k with stop := x } := by
  unfold State.requestStop
  exact if_pos (by simp [h, hs])

/-- Settles O35: the target is the one entry that holds the tag; one case for each state of it. -/
theorem cancelActsOnItsTarget : Obligations.CancelActsOnItsTarget := by
  intro s p tag target k t a w ht
  have run : exec (.cancel p tag target) s = .next (t.cancelled p k target) :=
    ht ▸ exec_admitted (q := .cancel target) rfl a
  rw [run]
  refine ⟨fun h => ?_, fun j hs htag => ?_⟩
  · have none := State.cancelTarget_admitted_none h tag (.cancel target) k
    rw [← ht] at none
    unfold State.cancelled
    rw [none]
  · have stands : (s.entry p j).state ≠ .vacant := EntryState.not_vacant_of_holdsTag hs
    have found : t.cancelTarget p k target = some j := ht ▸ a.cancelTarget_some w hs htag
    have same : t.entry p j = s.entry p j := ht ▸ a.entry_admitted stands
    have region : ∀ n, t.region n = s.region n := fun n => by rw [ht]; rfl
    rw [State.cancelled_target found, same]
    refine ⟨fun n hq hn => ?queued, fun n c hw hc hn hf => ?claim, fun ha he hx => ?range, fun h => ?late⟩
    case queued =>
      rw [if_pos hq]
      unfold State.cancelQueued
      rw [same, hn]
    case claim =>
      have claim : (t.region n).claimOf p = some c := by rw [region]; exact hf
      rw [if_neg (by rw [hw]; decide), if_pos ⟨hw, hc⟩]
      unfold State.cancelClaim
      rw [same, hn]
      simp only [State.dropClaim_some claim, region]
      rfl
    case range =>
      rw [if_neg (by rw [ha]; decide), if_neg (by simp [ha]), if_pos ⟨ha, he, hx⟩,
        State.requestStop_of_active (by rw [same, ha]) (by rw [same, hx]), same]
    case late =>
      obtain ⟨ha, h⟩ | ⟨hw, hc⟩ | ha := h
      · have finishing : ¬ ((s.entry p j).isErase = true ∧ (s.entry p j).stop = .none) :=
          fun ⟨he, hx⟩ => h.elim (fun h => by rw [h] at he; cases he) (· hx)
        rw [if_neg (by rw [ha]; decide), if_neg (by simp [ha]), if_neg fun e => finishing e.2]
      · rw [if_neg (by rw [hw]; decide), if_neg (by simp [hc]), if_neg (by simp [hw])]
      · rw [if_neg (by rw [ha]; decide), if_neg (by simp [ha]), if_neg (by simp [ha])]

end Sys2Proof.Machine
end

section
/-! The ends of the transactions of READs and steps (R55 to R64, R69, R86, R87): O43, O44, O41 and O46. -/

namespace Sys2Proof.Machine

/-! ### End commands whose result is wanted (R101) -/

/-- An end command without bytes in: the event acts on the released bus, then a waiting request is granted. -/
theorem State.Ends.next {s : State} {d : Dev} {use : BusUse} {n : Nat} (h : s.Ends d use n) (effect : State → State) :
    whenDue (s.endDue d use n) (fun s => s.endTransaction effect) s = .next (effect s.releaseBus).grantNext := by
  rw [whenDue_true h.due, h.endTransaction]

/-- The same where the event is one of the current operation (R79). -/
theorem State.Ends.next_current {s : State} {d : Dev} {use : BusUse} {n : Nat} {r : EntryRef} (h : s.Ends d use n)
    (hr : s.Runs d r) (effect : EntryRef → State → State) :
    whenDue (s.endDue d use n) (fun s => s.endTransaction fun s => s.onCurrent d fun r => effect r s) s =
      .next (effect r s.releaseBus).grantNext := by
  rw [h.next, hr.releaseBus.onCurrent]

/-- An end command with bytes in, for the current operation. -/
theorem State.Ends.next_reading {s : State} {d : Dev} {use : BusUse} {bytes : List Byte} {r : EntryRef}
    (h : s.Ends d use bytes.length) (hr : s.Runs d r) (effect : EntryRef → List Byte → State → State) :
    whenDue (s.endDue d use bytes.length)
      (fun s => s.endReading bytes fun bytes s => s.onCurrent d fun r => effect r bytes s) s =
      .next (effect r bytes s.releaseBus).grantNext := by
  rw [whenDue_true h.due, h.endReading, hr.releaseBus.onCurrent]

/-- The end of a status read, for the current operation. -/
theorem State.Ends.next_status {s : State} {d : Dev} {use : BusUse} {b : Byte} {r : EntryRef} (h : s.Ends d use 1)
    (hr : s.Runs d r) (effect : EntryRef → Byte → State → State) :
    whenDue (s.endDue d use 1) (fun s => s.endStatus b fun b s => s.onCurrent d fun r => effect r b s) s =
      .next (effect r b s.releaseBus).grantNext := by
  rw [whenDue_true h.due, h.endStatus, hr.releaseBus.onCurrent]

/-! ### The latch check and the issue of a step (R60, R61, R69) -/

/-- The issuing transaction of a PROGRAM (R61). -/
theorem State.issueStep_program {s : State} {r : EntryRef} {b : Byte} {o : Word} {f : Byte} {e : EpochField}
    {data : List Byte} (h : (s.entry r.port r.slot).request = some (.program b o f e data)) (d : Dev) :
    s.issueStep d r = s.place d (pageProgram (s.profile d)
      (BitVec.ofNat 32 (s.baseOf (s.entry r.port r.slot) * 4096 + o.toNat)) (s.entry r.port r.slot).payload) := by
  simp only [State.issueStep, Entry.isProgram, State.firstByte, Entry.byteOffset, h, if_true, Config.sectorBytes]

/-- The issuing transaction of a sector step (R69). -/
theorem State.issueStep_erase {s : State} {r : EntryRef} {b : Byte} {f : Half} {c : Word} {e : EpochField}
    (h : (s.entry r.port r.slot).request = some (.erase b f c e)) (d : Dev) :
    s.issueStep d r = s.place d (sectorErase (s.profile d) (BitVec.ofNat 32
      ((s.baseOf (s.entry r.port r.slot) + f.toNat + (s.entry r.port r.slot).progress) * 4096))) := by
  simp only [State.issueStep, Entry.isProgram, State.stepSector, Entry.firstSector, h, Bool.false_eq_true, if_false,
    Config.sectorBytes]

theorem Profile.latched_eq {p : Profile} {i : Fin 8} (h : p.latchBit = some i) (b : Byte) :
    p.latched b = b.getLsbD i.val := by
  simp only [Profile.latched, h, statusBit]

theorem exec_writeEnableEnd {s : State} {d : Dev} {r : EntryRef} (h : s.Ends d .writeEnable 0) (hr : s.Runs d r) :
    exec (.writeEnableEnd d) s = .next (if (s.profile d).latchBit.isSome
      then s.releaseBus.place d (statusRead .latchStatus (s.profile d)) else s.releaseBus.issueStep d r).grantNext :=
  h.next_current hr fun r s => if (s.profile d).latchBit.isSome
    then s.place d (statusRead .latchStatus (s.profile d)) else s.issueStep d r

theorem exec_latchStatusEnd {s : State} {d : Dev} {r : EntryRef} {b : Byte} (h : s.Ends d .latchStatus 1)
    (hr : s.Runs d r) : exec (.latchStatusEnd d b) s = .next (s.releaseBus.latchChecked d r b).grantNext :=
  h.next_status hr fun r b s => s.latchChecked d r b

/-- A latch bit that reads 1 lets the step go on (R60). -/
theorem State.latchChecked_set {s : State} {d : Dev} {b : Byte} (h : (s.profile d).latched b = true) (r : EntryRef) :
    s.latchChecked d r b = s.issueStep d r := if_pos h

/-- A first failed check makes a second write enable (R60). -/
theorem State.latchChecked_again {s : State} {d : Dev} {b : Byte} (h : (s.profile d).latched b = false)
    (hw : (s.seq d).writeEnables < 2) (r : EntryRef) :
    s.latchChecked d r b = (s.setSeq d { s.seq d with writeEnables := (s.seq d).writeEnables + 1 }).place d
      (opcodeOnly .writeEnable (s.profile d).writeEnableOp) := by
  unfold State.latchChecked
  rw [if_neg (by simp [h])]
  exact if_pos hw

/-- A second failed check ends the operation (R60). -/
theorem State.latchChecked_fails {s : State} {d : Dev} {b : Byte} (h : (s.profile d).latched b = false)
    (hw : 2 ≤ (s.seq d).writeEnables) (r : EntryRef) :
    s.latchChecked d r b = s.endOperation d r .writeEnableFail .none none := by
  unfold State.latchChecked
  rw [if_neg (by simp [h])]
  exact if_neg (Nat.not_lt.mpr hw)

/-- Settles O43: the issuing transaction by the kind of the operation, then the three outcomes of the latch check. -/
theorem latchCheckPrecedesTheIssue : Obligations.LatchCheckPrecedesTheIssue := by
  intro s d r issue hr kind
  have issued : s.releaseBus.issueStep d r = s.releaseBus.place d issue := by
    obtain ⟨b, o, f, e, data, hq, rfl⟩ | ⟨b, f, c, e, hq, rfl⟩ := kind
    · exact State.issueStep_program (s := s.releaseBus) hq d
    · exact State.issueStep_erase (s := s.releaseBus) hq d
  refine ⟨fun h hl => ?_, fun h hl => ?_, fun b i h hl hb => ?_, fun b i h hl hb hw => ?_, fun b i h hl hb hw => ?_⟩
  · rw [exec_writeEnableEnd h hr, if_neg (by simp [hl]), issued]
  · rw [exec_writeEnableEnd h hr, if_pos (Option.isSome_iff_ne_none.mpr hl)]
  · have set : (s.releaseBus.profile d).latched b = true := (Profile.latched_eq hl b).trans hb
    rw [exec_latchStatusEnd h hr, State.latchChecked_set set, issued]
  · have clear : (s.releaseBus.profile d).latched b = false := (Profile.latched_eq hl b).trans hb
    rw [exec_latchStatusEnd h hr, State.latchChecked_again clear hw]
    rfl
  · have clear : (s.releaseBus.profile d).latched b = false := (Profile.latched_eq hl b).trans hb
    rw [exec_latchStatusEnd h hr, State.latchChecked_fails clear hw]

/-! ### The timers of a step (R61, R69, R105, R107, R113) -/

/-- Settles O44: the four end commands act on the sequencer record of the released bus; the dwell timer's expiry is due
while its count stands at 0. -/
theorem timersOfAStepAreSetAndRemoved : Obligations.TimersOfAStepAreSetAndRemoved := by
  refine ⟨fun s d => ⟨fun h => ?_, fun h => ?_⟩, fun s d hn hs ht => ?_, fun s d => ⟨fun h => ?_, fun h => ?_⟩⟩
  · exact h.next fun s => s.setSeq d ((s.seq d).issued none)
  · exact h.next fun s => s.setSeq d ((s.seq d).issued (some (s.seq d).stepDwell))
  · have due : s.dwellPassed d = true := by simp [State.dwellPassed, hn, hs, ht]
    exact whenDue_true (effect := fun s => s.setSeq d { s.seq d with dwellTimer := none }) due
  · exact h.next fun s => s.watchStatus d .suspendingStatus
  · exact h.next fun s => s.watchStatus d .resumingStatus

/-! ### The end of a READ, of the clear-status transaction and of the verify read (R56, R62 to R64) -/

theorem exec_readDataEnd {s : State} {d : Dev} {bytes : List Byte} {r : EntryRef} (h : s.Ends d .readData bytes.length)
    (hr : s.Runs d r) : exec (.readDataEnd d bytes) s = .next (s.releaseBus.readEnded d r bytes).grantNext :=
  h.next_reading hr fun r bytes s => s.readEnded d r bytes

theorem exec_verifyReadEnd {s : State} {d : Dev} {bytes : List Byte} {r : EntryRef}
    (h : s.Ends d .verifyRead bytes.length) (hr : s.Runs d r) :
    exec (.verifyReadEnd d bytes) s = .next (s.releaseBus.verified d r bytes).grantNext :=
  h.next_reading hr fun r bytes s => s.verified d r bytes

/-- A READ outside a suspension ends its operation (R56, R75). -/
theorem State.readEnded_idles {s : State} {d : Dev} (h : (s.seq d).suspendedStep = none) (r : EntryRef)
    (bytes : List Byte) : s.readEnded d r bytes =
      s.endOperation d r .done (s.readValues r.port (s.entry r.port r.slot)) (some bytes) := by
  unfold State.readEnded
  rw [h]

/-- The end of a READ served in a suspension is a selection moment (R109, R110). -/
theorem State.readEnded_selects {s : State} {d : Dev} {range : EntryRef} (h : (s.seq d).suspendedStep = some range)
    (r : EntryRef) (bytes : List Byte) : s.readEnded d r bytes =
      (((s.setSeq d { s.seq d with current := none }).endEntry r.port r.slot .done
        (s.readValues r.port (s.entry r.port r.slot)) (some bytes)).reportEnds
          [(r, s.entry r.port r.slot)]).selectSuspended d range := by
  unfold State.readEnded
  rw [h]

/-- What a READ's DONE carries on a region (R56). -/
theorem State.readValues_region {s : State} {e : Entry} {n : RegionId} (h : e.region = some n) (p : Port) :
    s.readValues p e = .read (s.region n).generation ((s.region n).dirty && !((s.region n).holder == some p)) := by
  unfold State.readValues
  rw [h]
  rfl

theorem differing_self (l : List Byte) : differing l l = [] := by
  simp [differing]

/-- The first place at which a read-back differs is the head of the list of such places (R63). -/
theorem differing_eq_cons {payload back : List Byte} {i : Nat} (hi : i < payload.length) (diff : payload[i]? ≠ back[i]?)
    (agree : ∀ j, j < i → payload[j]? = back[j]?) : ∃ rest, differing payload back = i :: rest := by
  have split : List.range payload.length =
      List.range i ++ i :: (List.range (payload.length - i - 1)).map (i + 1 + ·) := by
    rw [← List.singleton_append, ← List.append_assoc, ← List.range_succ, ← List.range_add]
    congr 1
    omega
  exact ⟨_, List.filter_eq_cons_iff.mpr ⟨_, _, split, by simpa using agree, by simpa using diff, rfl⟩⟩

/-- The count of the places at which a read-back of the payload's length differs (R64). -/
theorem length_differing (payload back : List Byte) : (differing payload back).length =
    (List.range payload.length).countP fun j => back[j]? != payload[j]? := by
  rw [differing, ← List.countP_eq_length_filter]
  exact List.countP_congr fun j _ => by rw [bne_comm]; rfl

/-- A read-back that is the payload ends the PROGRAM DONE (R63). -/
theorem State.verified_same {s : State} {r : EntryRef} {back : List Byte} (h : back = (s.entry r.port r.slot).payload)
    (d : Dev) : s.verified d r back = s.endOperation d r .done .none none := by
  simp only [State.verified, h, differing_self]

/-- A read-back that differs first at place i ends the PROGRAM VERIFY_MISMATCH (R63, R64). -/
theorem State.verified_differs {s : State} {r : EntryRef} {back : List Byte} {i : Nat} {rest : List Nat}
    (h : differing (s.entry r.port r.slot).payload back = i :: rest) (d : Dev) :
    s.verified d r back = s.endOperation d r .verifyMismatch
      (.mismatch (BitVec.ofNat 32 ((s.entry r.port r.slot).byteOffset + i)) (rest.length + 1)) none := by
  simp only [State.verified, h]

/-- Settles O41: the end of a READ by the suspended step of its device; the verify read by the places at which the
read-back differs. -/
theorem finalTransactionsEndTheOperation : Obligations.FinalTransactionsEndTheOperation := by
  constructor
  · intro s d bytes r n v h hr hn hv
    have carried : s.releaseBus.readValues r.port (s.entry r.port r.slot) = v :=
      (State.readValues_region hn r.port).trans hv.symm
    rw [exec_readDataEnd h hr, ← carried]
    refine ⟨fun hs => ?_, fun range hs => ?_⟩
    · rw [State.readEnded_idles (s := s.releaseBus) hs]
      rfl
    · rw [State.readEnded_selects (s := s.releaseBus) hs]
      rfl
  refine fun s d r hr =>
    ⟨fun h => ?_, fun bytes h same => ?_, fun bytes b o f e data i h hq hl hi diff agree => ?_⟩
  · exact h.next_current hr fun r s => s.endOperation d r
      (if (s.entry r.port r.slot).isProgram then .programFail else .eraseFail) .none none
  · rw [exec_verifyReadEnd h hr, State.verified_same (s := s.releaseBus) same]
  · obtain ⟨rest, places⟩ := differing_eq_cons (hl ▸ hi) diff.symm fun j hj => (agree j hj).symm
    have offset : (s.entry r.port r.slot).byteOffset = o.toNat := by simp only [Entry.byteOffset, hq]
    have count : rest.length + 1 =
        (List.range bytes.length).countP fun j => bytes[j]? != (s.entry r.port r.slot).payload[j]? := by
      rw [hl, ← length_differing, places, List.length_cons]
    rw [exec_verifyReadEnd h hr, State.verified_differs (s := s.releaseBus) places, ← count, ← offset]
    rfl

/-! ### The end of polling (R62, R63, R69, R70, R86, R87) -/

theorem exec_pollStatusEnd {s : State} {d : Dev} {b : Byte} {r : EntryRef} (h : s.Ends d .pollStatus 1)
    (hr : s.Runs d r) : exec (.pollStatusEnd d b) s = .next (s.releaseBus.polled d r b).grantNext :=
  h.next_status hr fun r b s => s.polled d r b

/-- A busy status byte sets the poll timer again (R86). -/
theorem State.polled_busy {s : State} {d : Dev} {b : Byte} (h : (s.profile d).busy b = true) (r : EntryRef) :
    s.polled d r b = s.setSeq d { s.seq d with pollTimer := some (s.seq d).stepPoll } := if_pos h

/-- A status byte that is not busy ends the polling, and with it the two timers (R87). -/
theorem State.polled_ready {s : State} {d : Dev} {b : Byte} (h : (s.profile d).busy b = false) (r : EntryRef) :
    s.polled d r b = (s.setSeq d { s.seq d with stepTimer := none, pollTimer := none }).pollingEnded d r b :=
  if_neg (by simp [h])

theorem Profile.failed_eq {p : Profile} {i : Fin 8} (h : p.failBit = some i) (b : Byte) :
    p.failed b = b.getLsbD i.val := by
  simp only [Profile.failed, h, statusBit]

/-- Without a fail bit that reads 1 a step has not failed (R62). -/
theorem Profile.not_failed {p : Profile} {b : Byte} (h : ∀ i, p.failBit = some i → b.getLsbD i.val = false) :
    p.failed b = false := by
  cases hf : p.failBit with
  | none => simp only [Profile.failed, hf, statusBit]
  | some i => rw [Profile.failed_eq hf, h i hf]

/-- A failed step whose profile has a clear-status opcode goes on to that transaction (R62, R69). -/
theorem State.pollingEnded_clears {s : State} {d : Dev} {b op : Byte} (h : (s.profile d).failed b = true)
    (hc : (s.profile d).clearOp = some op) (r : EntryRef) : s.pollingEnded d r b =
      (s.setSeq d { s.seq d with state := .transfer }).place d (opcodeOnly .clearStatus op) := by
  simp only [State.pollingEnded, h, if_true, hc]

/-- A failed step without a clear-status opcode ends its operation (R62, R69). -/
theorem State.pollingEnded_fails {s : State} {d : Dev} {b : Byte} (h : (s.profile d).failed b = true)
    (hc : (s.profile d).clearOp = none) (r : EntryRef) : s.pollingEnded d r b =
      s.endOperation d r (if (s.entry r.port r.slot).isProgram then .programFail else .eraseFail) .none none := by
  simp only [State.pollingEnded, h, if_true, hc]

/-- A step that did not fail (R63, R70). -/
theorem State.pollingEnded_passes {s : State} {d : Dev} {b : Byte} (h : (s.profile d).failed b = false)
    (r : EntryRef) : s.pollingEnded d r b =
      if (s.entry r.port r.slot).isProgram then
        if (s.entry r.port r.slot).verify then
          (s.setSeq d { s.seq d with state := .transfer }).place d (readData .verifyRead (s.profile d)
            (BitVec.ofNat 32 (s.firstByte (s.entry r.port r.slot))) (s.entry r.port r.slot).payload.length)
        else s.endOperation d r .done .none none
      else s.sectorStepCompleted d r := by
  simp only [State.pollingEnded, h, Bool.false_eq_true, if_false]

/-- Settles O46: the status byte by its busy bit, then by its fail bit, then by the kind of the operation. -/
theorem finalStatusEndsThePolling : Obligations.FinalStatusEndsThePolling := by
  intro s d r b u h hr hu
  have profile : u.profile d = s.profile d := by rw [hu]; rfl
  have entry : u.entry r.port r.slot = s.entry r.port r.slot := by rw [hu]; rfl
  have ready : (s.profile d).busy b = false →
      exec (.pollStatusEnd d b) s = .next (u.pollingEnded d r b).grantNext := fun hb => by
    rw [exec_pollStatusEnd h hr, State.polled_ready (s := s.releaseBus) hb, hu]
    rfl
  refine ⟨fun hb => ?_, fun hb i op hf hi hc => ?_, fun hb i hf hi hc => ?_, fun hb hf =>
    ⟨fun hp hv => ?_, fun hp hv => ?_, fun hp => ?_⟩⟩
  · rw [exec_pollStatusEnd h hr, State.polled_busy (s := s.releaseBus) hb]
    rfl
  · have failed : (u.profile d).failed b = true := by rw [profile, Profile.failed_eq hf, hi]
    rw [ready hb, State.pollingEnded_clears failed (by rw [profile, hc])]
  · have failed : (u.profile d).failed b = true := by rw [profile, Profile.failed_eq hf, hi]
    rw [ready hb, State.pollingEnded_fails failed (by rw [profile, hc]), entry]
  all_goals have passed : (u.profile d).failed b = false := by rw [profile, Profile.not_failed hf]
  · have address : u.firstByte (s.entry r.port r.slot) = s.firstByte (s.entry r.port r.slot) := by rw [hu]; rfl
    rw [ready hb, State.pollingEnded_passes passed, entry, if_pos hp, if_pos hv, profile, address]
    rfl
  · rw [ready hb, State.pollingEnded_passes passed, entry, if_pos hp, if_neg (by simp [hv])]
  · rw [ready hb, State.pollingEnded_passes passed, entry, if_neg (by simp [hp])]

end Sys2Proof.Machine
end

section
/-! The selection of an IDLE device, the ranges that end on the way, and the starts (R55, R59, R67, R68, R72, R74, R80 to
R83): O40 and O38. -/

namespace Sys2Proof.Machine

/-! ### The cyclic order (R80, R82) -/

/-- What a selection takes from one port: its head, where that passes the test (R82). -/
def State.offer (s : State) (d : Dev) (test : Port → Slot → Bool) (p : Port) : Option EntryRef :=
  (s.head d p).bind fun k => if test p k then some ⟨p, k⟩ else none

theorem State.pick_eq (s : State) (d : Dev) (test : Port → Slot → Bool) :
    s.pick d test = (portsAfter (s.seq d).lastServed).findSome? (s.offer d test) := by
  unfold State.pick
  congr 1
  funext p
  unfold State.offer
  cases s.head d p <;> rfl

theorem State.offer_some {s : State} {d : Dev} {test : Port → Slot → Bool} {p : Port} {k : Slot}
    (h : s.head d p = some k) (ht : test p k = true) : s.offer d test p = some ⟨p, k⟩ := by
  simp only [State.offer, h, Option.bind_some, ht, if_true]

theorem State.offer_none {s : State} {d : Dev} {test : Port → Slot → Bool} {p : Port}
    (h : ∀ j, s.head d p = some j → test p j = false) : s.offer d test p = none := by
  unfold State.offer
  cases hp : s.head d p with
  | none => rfl
  | some k => simp [h k hp]

/-- Where no port offers anything nothing is selected. -/
theorem State.pick_none {s : State} {d : Dev} {test : Port → Slot → Bool}
    (h : ∀ p j, s.head d p = some j → test p j = false) : s.pick d test = none := by
  rw [State.pick_eq, List.findSome?_eq_none_iff]
  exact fun p _ => State.offer_none (h p)

theorem mem_portsAfter (p q : Port) : q ∈ portsAfter p := by
  cases p <;> cases q <;> decide

/-- Where one port alone offers something that is selected, whichever port was last served. -/
theorem State.pick_only {s : State} {d : Dev} {test : Port → Slot → Bool} {p : Port} {k : Slot}
    (h : s.head d p = some k) (ht : test p k = true) (alone : ∀ q, q ≠ p → s.head d q = none) :
    s.pick d test = some ⟨p, k⟩ := by
  have offers : ∀ q, s.offer d test q = if q = p then some ⟨p, k⟩ else none := fun q => by
    split
    · rename_i e; rw [e, State.offer_some h ht]
    · rename_i e; exact State.offer_none fun j hj => by rw [alone q e] at hj; cases hj
  rw [State.pick_eq]
  cases hs : (portsAfter (s.seq d).lastServed).findSome? (s.offer d test) with
  | none =>
    have := List.findSome?_eq_none_iff.mp hs p (mem_portsAfter _ p)
    rw [offers, if_pos rfl] at this
    cases this
  | some r =>
    obtain ⟨q, -, hq⟩ := List.exists_of_findSome?_eq_some hs
    rw [offers] at hq
    split at hq
    · exact hq.symm
    · cases hq

/-! ### What the selected head does (R82, R83) -/

theorem Entry.isRead_of_isProgram {e : Entry} (h : e.isProgram = true) : e.isRead = false := by
  unfold Entry.isProgram at h
  unfold Entry.isRead
  split at h
  · rename_i hq; rw [hq]
  · cases h

theorem Entry.isRead_of_isErase {e : Entry} (h : e.isErase = true) : e.isRead = false := by
  unfold Entry.isErase at h
  unfold Entry.isRead
  split at h
  · rename_i hq; rw [hq]
  · cases h

theorem Entry.isProgram_of_isErase {e : Entry} (h : e.isErase = true) : e.isProgram = false := by
  unfold Entry.isErase at h
  unfold Entry.isProgram
  split at h
  · rename_i hq; rw [hq]
  · cases h

/-- A selection takes the port of the selected head as last served and acts by the head's kind (R82, R83). -/
theorem State.startNext_some {s : State} {d : Dev} {r : EntryRef} (h : s.nextHead d = some r) {u : State}
    (hu : u = s.setSeq d { s.seq d with lastServed := r.port }) :
    s.startNext d =
      if (s.entry r.port r.slot).isRead then u.startRead d r .transfer
      else if (s.entry r.port r.slot).isProgram then u.startProgram d r
      else u.startSectorStep d r := by
  unfold State.startNext
  rw [h, hu]

theorem State.startNext_read {s : State} {d : Dev} {r : EntryRef} (h : s.nextHead d = some r)
    (hk : (s.entry r.port r.slot).isRead = true) :
    s.startNext d = (s.setSeq d { s.seq d with lastServed := r.port }).startRead d r .transfer := by
  rw [State.startNext_some h rfl, if_pos hk]

theorem State.startNext_program {s : State} {d : Dev} {r : EntryRef} (h : s.nextHead d = some r)
    (hk : (s.entry r.port r.slot).isProgram = true) :
    s.startNext d = (s.setSeq d { s.seq d with lastServed := r.port }).startProgram d r := by
  rw [State.startNext_some h rfl, if_neg (by simp [Entry.isRead_of_isProgram hk]), if_pos hk]

theorem State.startNext_erase {s : State} {d : Dev} {r : EntryRef} (h : s.nextHead d = some r)
    (hk : (s.entry r.port r.slot).isErase = true) :
    s.startNext d = (s.setSeq d { s.seq d with lastServed := r.port }).startSectorStep d r := by
  rw [State.startNext_some h rfl, if_neg (by simp [Entry.isRead_of_isErase hk]),
    if_neg (by simp [Entry.isProgram_of_isErase hk])]

theorem State.startNext_none {s : State} {d : Dev} (h : s.nextHead d = none) : s.startNext d = s := by
  unfold State.startNext
  rw [h]

/-! ### The ranges that end at their boundary (R68, R72, R74) -/

theorem State.endStopped_none {s : State} {d : Dev} (h : s.nextHead d = none) (fuel : Nat) :
    State.endStopped d fuel s = (s, []) := by
  cases fuel with
  | zero => rfl
  | succ fuel => simp only [State.endStopped, h]

/-- A head without a stop request ends the search for stopped ranges (R68). -/
theorem State.endStopped_passes {s : State} {d : Dev} {r : EntryRef} (h : s.nextHead d = some r)
    (hs : (s.entry r.port r.slot).stopped = false) (fuel : Nat) : State.endStopped d fuel s = (s, []) := by
  cases fuel with
  | zero => rfl
  | succ fuel => simp only [State.endStopped, h, hs, Bool.false_eq_true, if_false]

/-- A stopped range ends, and the next selection follows from the port after it (R68, R72). -/
theorem State.endStopped_ends {s : State} {d : Dev} {r : EntryRef} (h : s.nextHead d = some r)
    (hs : (s.entry r.port r.slot).stopped = true) {u : State}
    (hu : u = (s.setSeq d { s.seq d with lastServed := r.port }).endEntry r.port r.slot
      (s.entry r.port r.slot).stop.result) (fuel : Nat) :
    State.endStopped d (fuel + 1) s =
      ((State.endStopped d fuel u).1, (r, s.entry r.port r.slot) :: (State.endStopped d fuel u).2) := by
  simp only [State.endStopped, h, hs, if_true, hu]

theorem Entry.not_stopped {e : Entry} (h : e.isErase = false ∨ e.stop = .none) : e.stopped = false := by
  unfold Entry.stopped
  obtain h | h := h <;> simp [h]

/-- The selection of a device whose first head is no stopped range is the start of that head (R82, R83). -/
theorem State.selectIdle_starts {s : State} {d : Dev} {r : EntryRef} (h : s.nextHead d = some r)
    (hs : (s.entry r.port r.slot).stopped = false) : s.selectIdle d = s.startNext d := by
  simp only [State.selectIdle, State.endAndSelect, id_eq, State.endStopped_passes h hs, List.append_nil,
    State.regroup_self, State.reportEnds_nil]

/-! ### The end of one entry, record by record (R74, R144) -/

/-- The end of an entry rewrites the Exchange of its port alone. -/
theorem State.endEntry_exch (s : State) (p : Port) (k : Slot) (x : Result) (v : Values) (b : Option (List Byte)) :
    ∃ y, s.endEntry p k x v b = s.setExch p y := by
  unfold State.endEntry
  split
  · exact ⟨_, rfl⟩
  · exact ⟨_, rfl⟩

theorem State.entry_vacate_of_other {s : State} {p q : Port} {k j : Slot} (h : (q, j) ≠ (p, k)) :
    (s.vacate p k).entry q j = s.entry q j := by
  unfold State.entry State.vacate
  rw [State.exch_setExch]
  split
  · rename_i hq
    subst hq
    exact (Exchange.entry_put (s.exch q) k j Entry.vacant).trans (if_neg fun hj => h (by rw [hj]))
  · rfl

theorem State.entry_endEntry_of_other {s : State} {p q : Port} {k j : Slot} (h : (q, j) ≠ (p, k)) (x : Result)
    (v : Values) (b : Option (List Byte)) : (s.endEntry p k x v b).entry q j = s.entry q j := by
  unfold State.endEntry
  split
  · exact State.entry_vacate_of_other h
  · rw [State.entry_answer, if_neg fun ⟨hq, hj⟩ => h (by rw [hq, hj])]

/-- A stopped ACTIVE range is answered with its progress (R66, R72). -/
theorem Entry.answered_range {e : Entry} (ha : e.state = .active) (he : e.isErase = true) {x : Result}
    (hx : x ≠ .malformed) : e.answered x .none none =
      { e with state := .answered, result := some x, values := .progress e.progress } := by
  rw [Entry.answered_of_open (by rw [ha]; rfl)]
  simp [he, hx]

/-- The result of a stopped range (R72); PORT_RESET stands on DRAINING ranges alone (R74). -/
theorem StopRequest.stopped_result {e : Entry} {x : Result}
    (h : (e.stop = .cancel ∧ x = .cancelled) ∨ (e.stop = .leaseLost ∧ x = .leaseLost) ∨
      (e.stop = .retired ∧ x = .retired) ∨ (e.stop = .portReset ∧ e.state = .draining ∧ x = .cancelled)) :
    e.stop ≠ .none ∧ e.stop.result = x ∧ x ≠ .malformed := by
  obtain ⟨hs, rfl⟩ | ⟨hs, rfl⟩ | ⟨hs, rfl⟩ | ⟨hs, -, rfl⟩ := h <;> rw [hs] <;> decide

/-- Settles O40: the cyclic order port by port; the first head by its kind; a stopped range as the end of one entry. -/
theorem selectionIsCyclic : Obligations.SelectionIsCyclic := by
  refine ⟨?order, ?kind, ?stopped, ?whole⟩
  case order =>
    intro s d test p q r k order
    have pick : s.pick d test = [p, q, r].findSome? (s.offer d test) := by
      rw [State.pick_eq, order]
      rfl
    refine ⟨fun hp ht => ?_, fun np hq ht => ?_, fun np nq hr ht => ?_, State.pick_none⟩
    · rw [pick, List.findSome?_cons, State.offer_some hp ht]
    · rw [pick, List.findSome?_cons, State.offer_none np, List.findSome?_cons, State.offer_some hq ht]
    · rw [pick, List.findSome?_cons, State.offer_none np, List.findSome?_cons, State.offer_none nq,
        List.findSome?_cons, State.offer_some hr ht]
  case kind =>
    intro s d r u h hu
    subst hu
    exact ⟨State.startNext_read h, State.startNext_program h, fun hk _ => State.startNext_erase h hk,
      fun fuel hs => State.endStopped_passes h (Entry.not_stopped hs) _⟩
  case stopped =>
    intro s d r x e u fuel h he hk hx hu
    obtain ⟨stop, result, sound⟩ := StopRequest.stopped_result hx
    have stopped : e.stopped = true := by simp [Entry.stopped, hk, stop]
    have stands : (s.setSeq d { s.seq d with lastServed := r.port }).entry r.port r.slot = e := he.symm
    refine ⟨?_, fun ha => ?_, fun hd => ?_, fun q j hj => ?_, ?_⟩
    · rw [he] at stopped result ⊢
      exact State.endStopped_ends h stopped (by rw [hu, result]) fuel
    · rw [hu, State.endEntry_of_not_draining (by rw [stands, ha]; decide), State.entry_answer, if_pos ⟨rfl, rfl⟩,
        stands, Entry.answered_range ha hk sound]
    · rw [hu, State.endEntry_of_draining (by rw [stands, hd]), State.entry_vacate_same]
    · rw [hu, State.entry_endEntry_of_other hj]
      rfl
    · obtain ⟨y, hy⟩ := State.endEntry_exch (s.setSeq d { s.seq d with lastServed := r.port }) r.port r.slot x .none none
      rw [hu, hy]
      refine ⟨rfl, State.seq_setSeq_same .., ?_⟩
      rw [State.seq_setExch, State.seq_setSeq, if_neg (otherDev_ne d)]
  case whole =>
    exact fun s d => ⟨rfl, fun h => ⟨State.startNext_none h, State.endStopped_none h⟩⟩

/-! ### A request on an IDLE device (R53, R82) -/

@[simp] theorem State.setSeq_setSeq (s : State) (d : Dev) (v w : Sequencer) :
    (s.setSeq d v).setSeq d w = s.setSeq d w := by
  simp only [State.setSeq, PerDev.set_set]

@[simp] theorem Exchange.put_put (x : Exchange) (k : Slot) (e f : Entry) : (x.put k e).put k f = x.put k f := by
  simp only [Exchange.put, Vector.set_set]

@[simp] theorem State.setExch_setExch (s : State) (p : Port) (v w : Exchange) :
    (s.setExch p v).setExch p w = s.setExch p w := by
  simp only [State.setExch, PerPort.set_set]

@[simp] theorem State.setEntry_setEntry (s : State) (p : Port) (k : Slot) (e f : Entry) :
    (s.setEntry p k e).setEntry p k f = s.setEntry p k f := by
  simp only [State.setEntry, State.exch_setExch_same, Exchange.put_put, State.setExch_setExch]

theorem State.setSeq_setEntry (s : State) (d : Dev) (v : Sequencer) (p : Port) (k : Slot) (e : Entry) :
    (s.setSeq d v).setEntry p k e = (s.setEntry p k e).setSeq d v := rfl

theorem State.order_setEntry (s : State) (p q : Port) (k : Slot) (e : Entry) :
    ((s.setEntry p k e).exch q).order = (s.exch q).order := by
  unfold State.setEntry
  rw [State.exch_setExch]
  split
  · rename_i h; rw [h]; rfl
  · rfl

/-- The state with the entry of a request QUEUED (R53). -/
def State.queued (s : State) (p : Port) (k : Slot) : State := s.setEntry p k { s.entry p k with state := .queued }

theorem State.enqueue_idle {s : State} {d : Dev} (h : (s.seq d).state = .idle) (p : Port) (k : Slot) :
    s.enqueue p k d = (s.queued p k).selectIdle d := if_pos h

theorem State.enqueue_busy {s : State} {d : Dev} (h : (s.seq d).state ≠ .idle) (p : Port) (k : Slot) :
    s.enqueue p k d = s.queued p k := if_neg h

/-- A port has no head on a device for which it has no entry in line (R80). -/
theorem State.head_none {s : State} {d : Dev} {p : Port}
    (h : ∀ k, (s.entry p k).device = some d → (s.entry p k).state.inLine = false) : s.head d p = none := by
  refine List.find?_eq_none.mpr fun k _ hk => ?_
  rw [Bool.and_eq_true, beq_iff_eq] at hk
  rw [h k hk.2] at hk
  cases hk.1

/-- The one entry of a port in line for a device is the port's head there (R80). -/
theorem State.head_only {s : State} {d : Dev} {p : Port} {k : Slot} (hk : k ∈ (s.exch p).order)
    (hl : (s.entry p k).state.inLine = true) (hd : (s.entry p k).device = some d)
    (alone : ∀ j, j ≠ k → (s.entry p j).device = some d → (s.entry p j).state.inLine = false) :
    s.head d p = some k := by
  cases h : s.head d p with
  | none => exact absurd (List.find?_eq_none.mp h k hk) (by simp [hl, hd])
  | some j =>
    obtain ⟨inLine, named⟩ := State.head_some h
    by_contra hne
    have : j ≠ k := fun e => hne (by rw [e])
    rw [alone j this named] at inLine
    cases inLine

/-- A request that is QUEUED for a device with no other work is the head that the device acts on next (R80 to R82). -/
theorem State.nextHead_queued {s : State} {p : Port} {k : Slot} {d : Dev}
    (alone : ∀ q j, (s.entry q j).device = some d → (s.entry q j).state.inLine = false) (hk : k ∈ (s.exch p).order)
    (hd : (s.entry p k).device = some d) : (s.queued p k).nextHead d = some ⟨p, k⟩ := by
  have own : (s.queued p k).entry p k = { s.entry p k with state := .queued } := State.entry_setEntry_same ..
  have other : ∀ q j, ¬ (q = p ∧ j = k) → (s.queued p k).entry q j = s.entry q j := fun q j h => by
    rw [State.queued, State.entry_setEntry, if_neg h]
  refine State.pick_only (State.head_only ?_ ?_ ?_ fun j hj => ?_) ?_ fun q hq => State.head_none fun j => ?_
  · rw [State.queued, State.order_setEntry]; exact hk
  · rw [own]; rfl
  · rw [own]; exact hd
  · rw [other p j fun h => hj h.2]; exact alone p j
  · rw [own]; rfl
  · rw [other q j fun h => hq h.1]; exact alone q j

/-- A QUEUED entry becomes ACTIVE at its start, whatever the sequencer record is (R83). -/
theorem State.started_queued (s : State) (p : Port) (k : Slot) (d : Dev) (v : Sequencer) :
    ((s.queued p k).setSeq d v).setEntry p k (((s.queued p k).setSeq d v).entry p k).started =
      (s.setEntry p k { s.entry p k with state := .active }).setSeq d v := by
  have active : ((s.queued p k).entry p k).started = { s.entry p k with state := .active } := by
    rw [State.queued, State.entry_setEntry_same]
    rfl
  rw [State.setSeq_setEntry, State.entry_setSeq, active, State.queued, State.setEntry_setEntry]

/-- The start of a queued READ (R55). -/
theorem State.startRead_queued (s : State) (p : Port) (k : Slot) (d : Dev) (v : Sequencer) (i : DevState) :
    ((s.queued p k).setSeq d v).startRead d ⟨p, k⟩ i =
      ((s.setEntry p k { s.entry p k with state := .active }).setSeq d
        { v with state := i, current := some ⟨p, k⟩ }).place d (readData .readData (s.profile d)
          (BitVec.ofNat 32 (s.firstByte (s.entry p k))) (s.entry p k).readLength) := by
  have entry : ((s.queued p k).setSeq d v).entry p k = { s.entry p k with state := .queued } :=
    State.entry_setEntry_same ..
  unfold State.startRead
  dsimp only
  rw [State.started_queued, State.seq_setSeq_same, State.setSeq_setSeq, entry]
  rfl

/-- The beginning of a queued write's first step: the entry is ACTIVE and its region dirty (R36, R83). -/
theorem State.stepBegun_queued {s : State} {p : Port} {k : Slot} {n : RegionId} (h : (s.entry p k).region = some n)
    (d : Dev) (v : Sequencer) :
    (((s.queued p k).setSeq d v).setEntry p k (((s.queued p k).setSeq d v).entry p k).started).stepBegun
      (((s.queued p k).setSeq d v).entry p k).region =
      ((s.setEntry p k { s.entry p k with state := .active }).setRegion n
        { s.region n with dirty := true }).setSeq d v := by
  have region : (((s.queued p k).setSeq d v).entry p k).region = some n :=
    (congrArg Entry.region (State.entry_setEntry_same ..)).trans h
  rw [State.started_queued, region]
  rfl

/-- The start of a queued PROGRAM (R59, R60, R86, R89). -/
theorem State.startProgram_queued {s : State} {p : Port} {k : Slot} {n : RegionId} (h : (s.entry p k).region = some n)
    (d : Dev) (v : Sequencer) :
    ((s.queued p k).setSeq d v).startProgram d ⟨p, k⟩ =
      (((s.setEntry p k { s.entry p k with state := .active }).setRegion n { s.region n with dirty := true }).setSeq d
        { v with state := .transfer, current := some ⟨p, k⟩, stepPoll := s.settings.pollInterval,
                 stepTimeout := some s.settings.programTimeout, writeEnables := 1 }).place d
        (opcodeOnly .writeEnable (s.profile d).writeEnableOp) := by
  unfold State.startProgram
  dsimp only
  rw [State.stepBegun_queued h, State.seq_setSeq_same, State.setSeq_setSeq]
  rfl

/-- The start of a queued ERASE: its first sector step (R67, R68, R69). -/
theorem State.startSectorStep_queued {s : State} {p : Port} {k : Slot} {n : RegionId}
    (h : (s.entry p k).region = some n) (d : Dev) (v : Sequencer) :
    ((s.queued p k).setSeq d v).startSectorStep d ⟨p, k⟩ =
      (((s.setEntry p k { s.entry p k with state := .active }).setRegion n { s.region n with dirty := true }).setSeq d
        { v with state := .transfer, current := some ⟨p, k⟩, stepPoll := s.settings.pollInterval,
                 stepTimeout := some s.settings.eraseTimeout, stepSuspendLimit := s.settings.suspendLimit,
                 stepDwell := s.settings.resumeDwell, writeEnables := 1 }).place d
        (opcodeOnly .writeEnable (s.profile d).writeEnableOp) := by
  unfold State.startSectorStep
  dsimp only
  rw [State.stepBegun_queued h, State.seq_setSeq_same, State.setSeq_setSeq]
  rfl

/-- Settles O38: the queued entry is the head that the device acts on next; then one start for each kind. -/
theorem idleDeviceStartsTheRequest : Obligations.IdleDeviceStartsTheRequest := by
  intro s p k d t idle alone hk hd ht
  subst ht
  have head : (s.queued p k).nextHead d = some ⟨p, k⟩ := State.nextHead_queued alone hk hd
  have entry : (s.queued p k).entry p k = { s.entry p k with state := .queued } := State.entry_setEntry_same ..
  have starts : ((s.queued p k).entry p k).stopped = false → s.enqueue p k d = (s.queued p k).startNext d :=
    fun h => (State.enqueue_idle idle p k).trans (State.selectIdle_starts head h)
  refine ⟨fun b o l e hq => ?_, fun n b o f e data hq hn => ?_, fun n b f c e hq hn hs => ?_⟩
  · have read : ((s.queued p k).entry p k).isRead = true := by rw [entry]; simp only [Entry.isRead, hq]
    have unstopped : ((s.queued p k).entry p k).stopped = false :=
      Entry.not_stopped (.inl (by rw [entry]; simp only [Entry.isErase, hq]))
    have address : s.firstByte (s.entry p k) = s.baseOf (s.entry p k) * 4096 + o.toNat := by
      simp only [State.firstByte, Entry.byteOffset, hq, Config.sectorBytes]
    have length : (s.entry p k).readLength = l.toNat := by simp only [Entry.readLength, hq]
    rw [starts unstopped, State.startNext_read head read, State.startRead_queued, address, length]
    rfl
  · have program : ((s.queued p k).entry p k).isProgram = true := by rw [entry]; simp only [Entry.isProgram, hq]
    have unstopped : ((s.queued p k).entry p k).stopped = false :=
      Entry.not_stopped (.inl (by rw [entry]; simp only [Entry.isErase, hq]))
    rw [starts unstopped, State.startNext_program head program, State.startProgram_queued hn]
    rfl
  · have erase : ((s.queued p k).entry p k).isErase = true := by rw [entry]; simp only [Entry.isErase, hq]
    have unstopped : ((s.queued p k).entry p k).stopped = false := Entry.not_stopped (.inr (by rw [entry]; exact hs))
    rw [starts unstopped, State.startNext_erase head erase, State.startSectorStep_queued hn]
    rfl

end Sys2Proof.Machine
end

section
/-! The checks of READ, PROGRAM and ERASE in their order (R53, R54, R58, R66): O36 and O37. -/

namespace Sys2Proof.Machine

/-! ### Fields of a flash request (R190) -/

theorem epochOf_none {e : EpochField} (h : 2 ≤ e.presence.toNat) : epochOf e = none := by
  obtain ⟨m, hm⟩ := Nat.exists_eq_add_of_le' h
  simp only [epochOf, hm]

/-- A presence byte of 00h or 01h carries an expected epoch or none. -/
theorem epochOf_some {e : EpochField} (h : ¬ 2 ≤ e.presence.toNat) :
    epochOf e = some (if e.presence = 1#8 then some e.value else none) := by
  obtain h0 | h1 : e.presence.toNat = 0 ∨ e.presence.toNat = 1 := by omega
  · rw [if_neg fun h1 => by rw [h1] at h0; cases h0]
    simp only [epochOf, h0]
  · rw [if_pos (BitVec.eq_of_toNat_eq h1)]
    simp only [epochOf, h1]

theorem verifyOf_none {f : Byte} (h : 2 ≤ f.toNat) : verifyOf f = none := by
  obtain ⟨m, hm⟩ := Nat.exists_eq_add_of_le' h
  simp only [verifyOf, hm]

theorem verifyOf_some {f : Byte} (h : ¬ 2 ≤ f.toNat) : ∃ v, verifyOf f = some v := by
  obtain h0 | h1 : f.toNat = 0 ∨ f.toNat = 1 := by omega
  · exact ⟨false, by simp only [verifyOf, h0]⟩
  · exact ⟨true, by simp only [verifyOf, h1]⟩

/-! ### The checks of a named region, in order -/

/-- The last checks of a flash request that expects an epoch or none: the Table Epoch, then the device (R53). -/
def State.lastChecks (s : State) (e : EpochField) (d : Dev) : Except Result Dev :=
  if e.presence = 1#8 ∧ e.value ≠ s.epoch then .error .stale
  else if (s.seq d).state = .absent then .error .deviceAbsent
  else if (s.seq d).state = .faulted then .error .deviceFault
  else .ok d

theorem State.epochCheck_eq {s : State} {n : RegionId} {d : Dev} (hd : (s.region n).device = some d) (e : EpochField) :
    s.epochCheck n (if e.presence = 1#8 then some e.value else none) = s.lastChecks e d := by
  unfold State.epochCheck State.lastChecks State.deviceCheck
  rw [hd]
  by_cases h : e.presence = 1#8
  · simp only [h, if_true, Option.isSome_some, true_and, ne_eq, Option.some.injEq]
  · simp only [h, if_false, Option.isSome_none, Bool.false_eq_true, false_and]

theorem State.lastChecks_ok {s : State} {e : EpochField} {d : Dev}
    (he : e.presence = 0#8 ∨ (e.presence = 1#8 ∧ e.value = s.epoch)) (ha : (s.seq d).state ≠ .absent)
    (hf : (s.seq d).state ≠ .faulted) : s.lastChecks e d = .ok d := by
  have fresh : ¬ (e.presence = 1#8 ∧ e.value ≠ s.epoch) := by
    rintro ⟨h1, hv⟩
    obtain h0 | ⟨-, h⟩ := he
    · rw [h0] at h1; cases h1
    · exact hv h
  unfold State.lastChecks
  rw [if_neg fresh, if_neg ha, if_neg hf]

/-- The checks of READ on a named region (R53, R54). -/
theorem State.readCheck_eq {s : State} {b : Byte} {n : RegionId} {d : Dev} (hn : s.named b = some n)
    (hd : (s.region n).device = some d) (p : Port) (o : Word) (l : Half) (e : EpochField) :
    s.readCheck p b o l e =
      if 2 ≤ e.presence.toNat then .error .malformed
      else if (s.region n).state = .retiring then .error .retired
      else if (s.region n).readRights.has p = false then .error .noRight
      else if l.toNat = 0 ∨ 256 < l.toNat ∨ (s.region n).sectorCount * 4096 < o.toNat + l.toNat then .error .badRange
      else s.lastChecks e d := by
  unfold State.readCheck
  by_cases he : 2 ≤ e.presence.toNat
  · rw [epochOf_none he, if_pos he]
  · have empty : l = 0#16 ↔ l.toNat = 0 := BitVec.toNat_inj.symm
    simp only [epochOf_some he, hn, State.epochCheck_eq hd, he, if_false, empty, Bool.not_eq_true']
    rfl

/-- The checks of PROGRAM on a named region (R53, R58). -/
theorem State.programCheck_eq {s : State} {b : Byte} {n : RegionId} {d : Dev} (hn : s.named b = some n)
    (hd : (s.region n).device = some d) (p : Port) (o : Word) (f : Byte) (e : EpochField) (data : List Byte) :
    s.programCheck p b o f e data =
      if 2 ≤ f.toNat ∨ 2 ≤ e.presence.toNat then .error .malformed
      else if (s.region n).state = .retiring then .error .retired
      else if (s.region n).state ≠ .leased ∨ (s.region n).holder ≠ some p then .error .notHolder
      else if data.length = 0 ∨ (s.region n).sectorCount * 4096 < o.toNat + data.length ∨
          256 < o.toNat % 256 + data.length then .error .badRange
      else s.lastChecks e d := by
  unfold State.programCheck
  by_cases hf : 2 ≤ f.toNat
  · rw [verifyOf_none hf, if_pos (.inl hf)]
  · obtain ⟨v, hv⟩ := verifyOf_some hf
    by_cases he : 2 ≤ e.presence.toNat
    · rw [hv, epochOf_none he, if_pos (.inr he)]
    · simp only [hv, epochOf_some he, hn, State.epochCheck_eq hd, hf, he, or_self, if_false]
      rfl

/-- The checks of ERASE on a named region (R53, R66). -/
theorem State.eraseCheck_eq {s : State} {b : Byte} {n : RegionId} {d : Dev} (hn : s.named b = some n)
    (hd : (s.region n).device = some d) (p : Port) (f : Half) (m : Word) (e : EpochField) :
    s.eraseCheck p b f m e =
      if 2 ≤ e.presence.toNat then .error .malformed
      else if (s.region n).state = .retiring then .error .retired
      else if (s.region n).state ≠ .leased ∨ (s.region n).holder ≠ some p then .error .notHolder
      else if m.toNat = 0 ∨ 65536 < m.toNat ∨ (s.region n).sectorCount < f.toNat + m.toNat then .error .badRange
      else s.lastChecks e d := by
  unfold State.eraseCheck
  by_cases he : 2 ≤ e.presence.toNat
  · rw [epochOf_none he, if_pos he]
  · have empty : m = 0#32 ↔ m.toNat = 0 := BitVec.toNat_inj.symm
    simp only [epochOf_some he, hn, State.epochCheck_eq hd, he, if_false, empty]

/-! ### The outcome of a flash request -/

/-- A flash request comes to its checks, and to its place in the line of its device (R53). -/
theorem exec_read {c : Instr} {s : State} {p : Port} {tag b : Byte} {o : Word} {l : Half} {e : EpochField} {k : Slot}
    {t : State} (h : requestOf c = some (p, tag, .read b o l e)) (a : s.Admits p tag (.read b o l e) k)
    (ht : t = s.admitted p tag (.read b o l e) k) :
    exec c s = .next (t.checked p k (s.readCheck p b o l e) fun d => t.enqueue p k d) := by
  rw [exec_admitted h a, ht]
  rfl

theorem exec_program {c : Instr} {s : State} {p : Port} {tag b f : Byte} {o : Word} {e : EpochField}
    {data : List Byte} {k : Slot} {t : State} (h : requestOf c = some (p, tag, .program b o f e data))
    (a : s.Admits p tag (.program b o f e data) k) (ht : t = s.admitted p tag (.program b o f e data) k) :
    exec c s = .next (t.checked p k (s.programCheck p b o f e data) fun d => t.enqueue p k d) := by
  rw [exec_admitted h a, ht]
  rfl

theorem exec_erase {c : Instr} {s : State} {p : Port} {tag b : Byte} {f : Half} {m : Word} {e : EpochField} {k : Slot}
    {t : State} (h : requestOf c = some (p, tag, .erase b f m e)) (a : s.Admits p tag (.erase b f m e) k)
    (ht : t = s.admitted p tag (.erase b f m e) k) :
    exec c s = .next (t.checked p k (s.eraseCheck p b f m e) fun d => t.enqueue p k d) := by
  rw [exec_admitted h a, ht]
  rfl

/-- Settles O36: no check of the kind refuses; on a device that is not IDLE nothing is selected. -/
theorem flashRequestsAreQueued : Obligations.FlashRequestsAreQueued := by
  refine ⟨fun s p tag b k n d e q c hb hd ha hf hc a he kind => ?_, fun s p k d h => State.enqueue_busy h p k⟩
  have last : s.lastChecks e d = .ok d := State.lastChecks_ok he ha hf
  have encoded : ¬ 2 ≤ e.presence.toNat := by
    obtain h | ⟨h, -⟩ := he <;> rw [h] <;> decide
  obtain ⟨o, l, rfl, free, retiring, right, low, high, range⟩ | ⟨leased, holder, kind⟩ := kind
  · have check : s.readCheck p b o l e = .ok d := by
      rw [State.readCheck_eq (State.named_some hb free) hd, if_neg encoded, if_neg retiring, if_neg (by simp [right]),
        if_neg (by omega), last]
    rw [exec_read hc a rfl, State.checked_ok check]
  have named : s.named b = some n := State.named_some hb (by rw [leased]; decide)
  have retiring : ¬ (s.region n).state = .retiring := by rw [leased]; decide
  have held : ¬ ((s.region n).state ≠ .leased ∨ (s.region n).holder ≠ some p) := by simp [leased, holder]
  obtain ⟨o, f, data, rfl, flags, low, range, page⟩ | ⟨f, m, rfl, low, high, range⟩ := kind
  · have flag : ¬ 2 ≤ f.toNat := by
      obtain h | h := flags <;> rw [h] <;> decide
    have check : s.programCheck p b o f e data = .ok d := by
      rw [State.programCheck_eq named hd, if_neg (by simp [flag, encoded]), if_neg retiring, if_neg held,
        if_neg (by omega), last]
    rw [exec_program hc a rfl, State.checked_ok check]
  · have check : s.eraseCheck p b f m e = .ok d := by
      rw [State.eraseCheck_eq named hd, if_neg encoded, if_neg retiring, if_neg held, if_neg (by omega), last]
    rw [exec_erase hc a rfl, State.checked_ok check]

/-- The first check that fails decides the answer; the outcome of one that passes is that of the checks after it
(R11). -/
theorem refused_or {α : Type} {t : State} {p : Port} {k : Slot} {x y : Host.Outcome State Fault Refusal} {c : Prop}
    [Decidable c] {r : Result} {check : Except Result α} {act : α → State}
    (run : x = .next (t.checked p k (if c then .error r else check) act))
    (rest : x = .next (t.checked p k check act) → x = y) : x = if c then .next (t.answer p k r) else y := by
  by_cases h : c
  · rw [if_pos h] at run ⊢
    exact run
  · rw [if_neg h] at run ⊢
    exact rest run

/-- The answers of the last checks, in order (R53). -/
theorem State.refused_last {s t : State} {p : Port} {k : Slot} {x : Host.Outcome State Fault Refusal} {e : EpochField}
    {d : Dev} {act : Dev → State} (run : x = .next (t.checked p k (s.lastChecks e d) act)) :
    x = if e.presence = 1#8 ∧ e.value ≠ s.epoch then .next (t.answer p k .stale)
      else if (s.seq d).state = .absent then .next (t.answer p k .deviceAbsent)
      else if (s.seq d).state = .faulted then .next (t.answer p k .deviceFault)
      else x :=
  refused_or run fun run => refused_or run fun run => refused_or run fun _ => rfl

/-- Settles O37: the chain of checks of each kind, read as the chain of its answers. -/
theorem flashRequestsAreRefusedInOrder : Obligations.FlashRequestsAreRefusedInOrder := by
  intro s p tag b k n d e q c answered hb hd free hc a hans
  have named : s.named b = some n := State.named_some hb free
  subst hans
  refine ⟨?read, ?program, ?erase⟩
  case read =>
    rintro o l rfl
    have run := exec_read hc a rfl
    rw [State.readCheck_eq named hd] at run
    exact refused_or run fun run => refused_or run fun run => refused_or run fun run =>
      refused_or run State.refused_last
  case program =>
    rintro o f data rfl
    have run := exec_program hc a rfl
    rw [State.programCheck_eq named hd] at run
    exact refused_or run fun run => refused_or run fun run => refused_or run fun run =>
      refused_or run State.refused_last
  case erase =>
    rintro f m rfl
    have run := exec_erase hc a rfl
    rw [State.eraseCheck_eq named hd] at run
    exact refused_or run fun run => refused_or run fun run => refused_or run fun run =>
      refused_or run State.refused_last

end Sys2Proof.Machine
end

section
/-! The fault of a device (R91): what the ends of entries can reach at the Region Table, and O47. -/

namespace Sys2Proof.Machine

/-! ### What the end of an entry can reach at the Region Table (R75) -/

/-- A region record names an entry: as a claim of its queue, as the waiting RELEASE or as the pending RETIRE (R143). -/
def Region.Names (r : Region) (q : Port) (j : Slot) : Prop :=
  (∃ c ∈ r.queue, c.port = q ∧ c.slot = j) ∨ (r.holder = some q ∧ r.release = some j) ∨
    r.pendingRetire = some ⟨q, j⟩

/-- No region record names the entry. -/
def State.Unnamed (s : State) (q : Port) (j : Slot) : Prop := ∀ n, ¬ (s.region n).Names q j

/-- Only WAITING entries are named by region records (R143). -/
theorem State.WaitsReferred.unnamed {s : State} (w : s.WaitsReferred) {q : Port} {j : Slot}
    (h : (s.entry q j).state ≠ .waiting) : s.Unnamed q j := by
  rintro n (⟨c, hc, rfl, rfl⟩ | ⟨hq, hj⟩ | hr)
  · exact h (w.claims n c hc).1.1
  · exact h (w.release_waiting hq hj)
  · exact h (w.retires n ⟨q, j⟩ hr).1.1

theorem Region.free_names (q : Port) (j : Slot) : ¬ Region.free.Names q j := by
  rintro (⟨c, hc, -⟩ | ⟨hq, -⟩ | hr)
  · cases hc
  · cases hq
  · cases hr

/-- A hand-over names no entry that was not named before (R38). -/
theorem Region.names_of_leaseOver {x : Settings} {r : Region} {q : Port} {j : Slot} (h : (r.leaseOver x).Names q j) :
    r.Names q j := by
  have release : (r.leaseOver x).release = none ∧ (r.leaseOver x).pendingRetire = r.pendingRetire := by
    cases hq : r.queue with
    | nil => rw [Region.leaseOver_nil hq]; exact ⟨rfl, rfl⟩
    | cons c rest => rw [Region.leaseOver_cons hq]; exact ⟨rfl, rfl⟩
  obtain ⟨c, hc, own⟩ | ⟨-, hj⟩ | hr := h
  · exact .inl ⟨c, Region.queue_leaseOver x r c hc, own⟩
  · rw [release.1] at hj; cases hj
  · exact .inr (.inr (release.2 ▸ hr))

/-- The action leaves the entry as it is, and unnamed, where no region record names it. -/
def State.Spares (q : Port) (j : Slot) (s t : State) : Prop :=
  s.Unnamed q j → t.entry q j = s.entry q j ∧ t.Unnamed q j

theorem State.Spares.refl {q : Port} {j : Slot} (s : State) : s.Spares q j s := fun h => ⟨rfl, h⟩

theorem State.Spares.trans {q : Port} {j : Slot} {s t u : State} (h : s.Spares q j t) (g : t.Spares q j u) :
    s.Spares q j u := fun k =>
  have ⟨e, k⟩ := h k
  have ⟨e', k⟩ := g k
  ⟨e'.trans e, k⟩

/-- An update of one region record that names no more entries. -/
theorem State.setRegion_spares {s : State} {n : RegionId} {r : Region} {q : Port} {j : Slot}
    (h : r.Names q j → (s.region n).Names q j) : s.Spares q j (s.setRegion n r) := fun k => by
  refine ⟨rfl, fun m hm => ?_⟩
  rw [State.region_setRegion] at hm
  split at hm
  · exact k n (h hm)
  · exact k m hm

/-- The end of a lease answers its own RELEASE, if any, and the claim that is granted (R37, R38). -/
theorem State.leaseEnd_spares {s : State} {n : RegionId} {ex : Port} {rel : Option Slot}
    (h : ∀ k, rel = some k → (s.region n).holder = some ex ∧ (s.region n).release = some k) (q : Port) (j : Slot) :
    s.Spares q j (s.leaseEnd n ex rel) := fun k => by
  refine ⟨State.entry_leaseEnd_of_other ?_ ?_, fun m hm => ?_⟩
  · rintro ⟨rfl, hj⟩
    exact k n (.inr (.inl (h j hj)))
  · rintro c hc ⟨rfl, rfl⟩
    exact k n (.inl ⟨c, hc, rfl, rfl⟩)
  · rw [State.region_leaseEnd] at hm
    split at hm
    · exact k n (Region.names_of_leaseOver hm)
    · exact k m hm

/-- A region that becomes FREE answers its pending RETIRE (R22, R23). -/
theorem State.freeRegion_spares (s : State) (n : RegionId) (q : Port) (j : Slot) :
    s.Spares q j (s.freeRegion n) := fun k => by
  refine ⟨?_, fun m hm => ?_⟩
  · rw [State.entry_freeRegion, if_neg fun h => k n (.inr (.inr h))]
  · rw [State.region_freeRegion] at hm
    split at hm
    · exact Region.free_names q j hm
    · exact k m hm

theorem State.leaveRelease_spares (s : State) (p : Port) (k : Slot) (n : RegionId) (q : Port) (j : Slot) :
    s.Spares q j (s.leaveRelease p k n) := by
  unfold State.leaveRelease
  split
  · rename_i h
    simp only [Bool.and_eq_true, beq_iff_eq] at h
    obtain ⟨⟨-, holder⟩, -⟩ := h
    split
    · exact State.leaseEnd_spares (fun _ hk => ⟨holder, hk⟩) q j
    · exact State.setRegion_spares id
  · exact .refl s

theorem State.operationEnded_spares (s : State) (p : Port) (k : Slot) (n : RegionId) (write : Bool) (q : Port)
    (j : Slot) : s.Spares q j (s.operationEnded p k n write) := by
  unfold State.operationEnded
  refine (s.leaveRelease_spares p k n q j).trans ?_
  generalize s.leaveRelease p k n = t
  dsimp only
  split
  · split
    · exact State.leaseEnd_spares (fun _ hk => by cases hk) q j
    · exact .refl t
  · split
    · exact .refl t
    · exact t.freeRegion_spares n q j
  all_goals exact .refl t

theorem State.entryGone_spares (s : State) (p : Port) (k : Slot) (e : Entry) (q : Port) (j : Slot) :
    s.Spares q j (s.entryGone p k e) := by
  unfold State.entryGone
  split
  · exact .refl s
  · split
    · exact s.operationEnded_spares p k _ _ q j
    · exact s.leaveRelease_spares p k _ q j

/-- The consequences of ends at the Region Table reach no entry but those that its records name (R75, R143). -/
theorem State.reportEnds_spares (s : State) (gone : List (EntryRef × Entry)) (q : Port) (j : Slot) :
    s.Spares q j (s.reportEnds gone) := by
  have report : s.Spares q j (allRegions.foldl (State.reportAt gone) s) := by
    refine foldl_keeps (State.Spares q j) .refl .trans _ _ (fun t n _ => ?_) s
    refine foldl_keeps (State.Spares q j) .refl .trans _ _ (fun t x _ => ?_) t
    split
    · exact t.entryGone_spares _ _ _ q j
    · exact .refl t
  exact fun k => ⟨(State.entry_regroup ..).trans (report k).1, (report k).2⟩

/-! ### What the ends of entries can reach in the state -/

/-- The action reaches only the Exchanges, the Notice Lists, the region records and the Table Epoch. -/
def State.EndWork (s t : State) : Prop := State.TableWork { s with epoch := t.epoch } t

theorem State.EndWork.refl (s : State) : s.EndWork s := rfl

theorem State.EndWork.trans {s t u : State} (h : s.EndWork t) (g : t.EndWork u) : s.EndWork u := by
  unfold State.EndWork State.TableWork at h g ⊢
  rw [g, h]

theorem State.TableWork.endWork {s t : State} (h : s.TableWork t) : s.EndWork t := by
  unfold State.EndWork State.TableWork at *
  rw [h]

theorem State.regroup_endWork {s t : State} (h : s.EndWork t) : s.EndWork (s.regroup t) := by
  unfold State.EndWork State.TableWork at *
  rw [h]
  rfl

theorem State.leaveRelease_work (s : State) (p : Port) (k : Slot) (n : RegionId) :
    s.TableWork (s.leaveRelease p k n) := by
  unfold State.leaveRelease
  split
  · split
    · exact s.leaseEnd_work n p _
    · exact s.setRegion_work n _
  · exact .refl s

theorem State.operationEnded_endWork (s : State) (p : Port) (k : Slot) (n : RegionId) (write : Bool) :
    s.EndWork (s.operationEnded p k n write) := by
  unfold State.operationEnded
  refine (s.leaveRelease_work p k n).endWork.trans ?_
  generalize s.leaveRelease p k n = t
  dsimp only
  split
  · split
    · exact (t.leaseEnd_work n p none).endWork
    · exact .refl t
  · split
    · exact .refl t
    · unfold State.EndWork
      rw [State.epoch_freeRegion]
      exact t.freeRegion_work n
  all_goals exact .refl t

theorem State.entryGone_endWork (s : State) (p : Port) (k : Slot) (e : Entry) : s.EndWork (s.entryGone p k e) := by
  unfold State.entryGone
  split
  · exact .refl s
  · split
    · exact s.operationEnded_endWork p k _ _
    · exact (s.leaveRelease_work p k _).endWork

theorem State.reportEnds_endWork (s : State) (gone : List (EntryRef × Entry)) : s.EndWork (s.reportEnds gone) := by
  refine State.regroup_endWork ?_
  refine foldl_keeps State.EndWork .refl .trans _ _ (fun t n _ => ?_) s
  refine foldl_keeps State.EndWork .refl .trans _ _ (fun t x _ => ?_) t
  split
  · exact t.entryGone_endWork _ _ _
  · exact .refl t

theorem State.endEntries_endWork (s : State) (l : List (EntryRef × Result)) : s.EndWork (s.endEntries l) := by
  refine (State.regroup_endWork ?_).trans (State.reportEnds_endWork _ _)
  refine foldl_keeps State.EndWork .refl .trans _ _ (fun t x _ => ?_) s
  obtain ⟨y, hy⟩ := t.endEntry_exch x.1.port x.1.slot x.2 .none none
  rw [hy]
  rfl

/-! ### Entries ended by their device (R91) -/

/-- An entry after its end: VACANT where it was DRAINING, else answered where it is open (R74, R137). -/
def Entry.ended (e : Entry) (x : Result) : Entry := if e.state = .draining then .vacant else e.answered x .none none

theorem Entry.ended_of_draining {e : Entry} (h : e.state = .draining) (x : Result) : e.ended x = .vacant := if_pos h

theorem Entry.ended_of_open {e : Entry} (h : e.state = .queued ∨ e.state = .active) (x : Result) :
    (e.ended x).state = .answered ∧ (e.ended x).result = some x := by
  have isOpen : e.state.open = true := by obtain h | h := h <;> rw [h] <;> rfl
  have ended : e.ended x = e.answered x .none none := if_neg (by obtain h | h := h <;> rw [h] <;> decide)
  rw [ended, Entry.answered_of_open isOpen]
  exact ⟨rfl, rfl⟩

/-- An entry that has ended stays as it is (R137). -/
@[simp] theorem Entry.ended_ended (e : Entry) (x : Result) : (e.ended x).ended x = e.ended x := by
  by_cases h : e.state = .draining
  · rw [Entry.ended_of_draining h]; rfl
  · unfold Entry.ended
    rw [if_neg h, Entry.answered_answered, if_neg]
    unfold Entry.answered
    split
    · exact nofun
    · exact h

theorem State.entry_endEntry_same (s : State) (p : Port) (k : Slot) (x : Result) :
    (s.endEntry p k x).entry p k = (s.entry p k).ended x := by
  by_cases h : (s.entry p k).state = .draining
  · rw [State.endEntry_of_draining h, State.entry_vacate_same, Entry.ended_of_draining h]
  · rw [State.endEntry_of_not_draining h, State.entry_answer, if_pos ⟨rfl, rfl⟩, Entry.ended, if_neg h]

/-- Entries end one after another, each as if it were alone. -/
theorem State.entry_foldl_endEntry (s : State) {l : List (EntryRef × Result)} {q : Port} {j : Slot} {x : Result}
    (h : ∀ y ∈ l, y.1 = ⟨q, j⟩ → y.2 = x) :
    (l.foldl (fun s x => s.endEntry x.1.port x.1.slot x.2) s).entry q j =
      if (⟨q, j⟩, x) ∈ l then (s.entry q j).ended x else s.entry q j := by
  induction l generalizing s with
  | nil => rfl
  | cons y l ih =>
    rw [List.foldl_cons, ih _ fun z hz => h z (List.mem_cons_of_mem _ hz)]
    by_cases hy : y.1 = ⟨q, j⟩
    · obtain ⟨r, z⟩ := y
      obtain rfl : r = ⟨q, j⟩ := hy
      obtain rfl : z = x := h _ (List.mem_cons_self ..) rfl
      rw [if_pos (List.mem_cons_self ..), State.entry_endEntry_same, Entry.ended_ended, ite_self]
    · have apart : (q, j) ≠ (y.1.port, y.1.slot) := fun e => hy (by cases e; rfl)
      have ne : ((⟨q, j⟩, x) : EntryRef × Result) ≠ y := fun e => hy (by rw [← e])
      rw [State.entry_endEntry_of_other apart]
      simp only [List.mem_cons, ne, false_or]

/-- Of the entries that a device ends, one that no region record names comes to its own end alone (R91). -/
theorem State.entry_endEntries {s : State} {l : List (EntryRef × Result)} {q : Port} {j : Slot} {x : Result}
    (named : s.Unnamed q j) (h : ∀ y ∈ l, y.1 = ⟨q, j⟩ → y.2 = x) :
    (s.endEntries l).entry q j = if (⟨q, j⟩, x) ∈ l then (s.entry q j).ended x else s.entry q j := by
  have same : ∀ (l : List (EntryRef × Result)) (s : State),
      (l.foldl (fun s x => s.endEntry x.1.port x.1.slot x.2) s).regions = s.regions := fun l =>
    foldl_keeps (fun a b : State => b.regions = a.regions) (fun _ => rfl) (fun h g => g.trans h) _ l fun t y _ => by
      obtain ⟨z, hz⟩ := t.endEntry_exch y.1.port y.1.slot y.2 .none none
      rw [hz]
      rfl
  have still : (s.inAdmissionOrder fun s => l.foldl (fun s x => s.endEntry x.1.port x.1.slot x.2) s).Unnamed q j :=
    fun n hn => named n (State.region_of_regions (same l s) n ▸ hn)
  unfold State.endEntries
  rw [(State.reportEnds_spares _ _ q j still).1]
  exact (State.entry_regroup ..).trans (s.entry_foldl_endEntry h)

/-- The line of a device: its QUEUED, ACTIVE and DRAINING entries in admission order (R80). -/
theorem State.mem_lineEntries {s : State} {d : Dev} {test : Entry → Bool} {result : Port → Slot → Result}
    {p : Port} {k : Slot} {x : Result} :
    (⟨p, k⟩, x) ∈ s.lineEntries d test result ↔
      (k ∈ (s.exch p).order ∧ (s.entry p k).state.inLine = true ∧ (s.entry p k).device = some d ∧
        test (s.entry p k) = true) ∧ x = result p k := by
  unfold State.lineEntries State.lineWhere
  simp only [List.mem_flatMap, List.mem_map, State.mem_slotsWhere, Prod.mk.injEq, EntryRef.mk.injEq,
    Bool.and_eq_true, beq_iff_eq, and_assoc]
  constructor
  · rintro ⟨p, -, k, ho, hl, hd, ht, rfl, rfl, rfl⟩
    exact ⟨ho, hl, hd, ht, rfl⟩
  · rintro ⟨ho, hl, hd, ht, rfl⟩
    exact ⟨p, mem_allPorts p, k, ho, hl, hd, ht, rfl, rfl, rfl⟩

/-! ### The fault (R91) -/

/-- The bus when a sequencer has given up its transaction there: the result will be discarded (R91). -/
def Bus.discarded (b : Bus) (d : Dev) : Bus :=
  match b.cur with
  | none => b
  | some t => if t.dev = d then { b with cur := some { t with live := false } } else b

theorem Bus.discarded_own {b : Bus} {d : Dev} {t : OnBus} (h : b.cur = some t) (hd : t.dev = d) :
    b.discarded d = { b with cur := some { t with live := false } } := by
  unfold Bus.discarded
  rw [h]
  exact if_pos hd

theorem State.abandonBus_eq (s : State) (d : Dev) :
    s.abandonBus d = (s.setSeq d { s.seq d with busRequest := none }).setBus (s.bus.discarded d) := by
  unfold State.abandonBus Bus.discarded
  dsimp only [State.setSeq_bus]
  cases s.bus.cur with
  | none => rfl
  | some t => dsimp only; split <;> rfl

/-- The state of a fault before the device's entries end: the record of R91 item 1, and no request or result of the device
on the bus. -/
def State.faultBegun (s : State) (d : Dev) : State :=
  (s.setSeq d { (s.seq d).faulted with busRequest := none }).setBus (s.bus.discarded d)

/-- The entries that the fault of a device ends, each with its result (R91 items 2 to 4). -/
def State.faultEnds (s : State) (d : Dev) : List (EntryRef × Result) :=
  s.lineEntries d (fun _ => true) (faultResult (s.seq d).current)

theorem State.enterFaulted_eq (s : State) (d : Dev) :
    s.enterFaulted d = (s.faultBegun d).endEntries (s.faultEnds d) := by
  have begun : (s.setSeq d (s.seq d).faulted).abandonBus d = s.faultBegun d := by
    rw [State.abandonBus_eq, State.seq_setSeq_same, State.setSeq_setSeq]
    rfl
  rw [← begun]
  rfl

theorem State.enterFaulted_endWork (s : State) (d : Dev) : (s.faultBegun d).EndWork (s.enterFaulted d) := by
  rw [State.enterFaulted_eq]
  exact State.endEntries_endWork _ _

theorem State.seqs_enterFaulted (s : State) (d : Dev) :
    (s.enterFaulted d).seqs = s.seqs.set d { (s.seq d).faulted with busRequest := none } := by
  rw [show s.enterFaulted d = _ from s.enterFaulted_endWork d]
  rfl

theorem State.seq_enterFaulted (s : State) (d : Dev) :
    (s.enterFaulted d).seq d = { (s.seq d).faulted with busRequest := none } := by
  unfold State.seq
  rw [State.seqs_enterFaulted, PerDev.get_set_same]
  rfl

theorem State.seq_enterFaulted_other (s : State) (d : Dev) :
    (s.enterFaulted d).seq (otherDev d) = s.seq (otherDev d) := by
  unfold State.seq
  rw [State.seqs_enterFaulted, PerDev.get_set_other _ (otherDev_ne d)]

theorem State.bus_enterFaulted (s : State) (d : Dev) : (s.enterFaulted d).bus = s.bus.discarded d := by
  rw [show s.enterFaulted d = _ from s.enterFaulted_endWork d]
  rfl

/-- A faulted device shows in the fault indication (R93). -/
theorem State.deviceFault_of_faulted {s : State} {d : Dev} (h : (s.seq d).state = .faulted) :
    s.deviceFault = true := by
  unfold State.deviceFault
  cases d with
  | d0 => rw [show s.seqs.d0.state = .faulted from h]; rfl
  | d1 => rw [show s.seqs.d1.state = .faulted from h]; simp

/-- What the fault of a device makes of an entry that does not wait: those in the device's line end (R91). -/
theorem State.entry_enterFaulted {s : State} (w : s.WaitsReferred) (form : ∀ p, (s.exch p).WellFormed) {d : Dev}
    {q : Port} {j : Slot} (h : (s.entry q j).state ≠ .waiting) :
    (s.enterFaulted d).entry q j =
      if (s.entry q j).state.inLine = true ∧ (s.entry q j).device = some d then
        (s.entry q j).ended (faultResult (s.seq d).current q j)
      else s.entry q j := by
  have named : (s.faultBegun d).Unnamed q j := w.unnamed h
  have own : ∀ y ∈ s.faultEnds d, y.1 = ⟨q, j⟩ → y.2 = faultResult (s.seq d).current q j := by
    rintro ⟨r, x⟩ hy rfl
    exact (State.mem_lineEntries.mp hy).2
  have stands : (s.entry q j).state.inLine = true → j ∈ (s.exch q).order := fun hl =>
    State.mem_order_of_form (form q) fun e => by rw [e] at hl; cases hl
  have ends : (⟨q, j⟩, faultResult (s.seq d).current q j) ∈ s.faultEnds d ↔
      (s.entry q j).state.inLine = true ∧ (s.entry q j).device = some d :=
    State.mem_lineEntries.trans ⟨fun ⟨⟨_, hl, hd, _⟩, _⟩ => ⟨hl, hd⟩, fun ⟨hl, hd⟩ => ⟨⟨stands hl, hl, hd, rfl⟩, rfl⟩⟩
  rw [State.enterFaulted_eq, State.entry_endEntries named own]
  simp only [ends]
  rfl

/-- The two expiries are due at 0 in their device states, and each is the fault of its device (R89 to R91, R108, R114). -/
theorem exec_timerExpiry {s : State} {d : Dev} {c : Instr} (hr : s.resetn = true)
    (h : (c = .stepTimerExpiry d ∧ ((s.seq d).state = .waitReady ∨ (s.seq d).state = .suspending) ∧
        (s.seq d).stepTimer = some 0) ∨
      (c = .suspendTimerExpiry d ∧ ((s.seq d).state = .suspending ∨ (s.seq d).state = .resuming) ∧
        (s.seq d).suspendTimer = some 0)) : exec c s = .next (s.enterFaulted d) := by
  obtain ⟨rfl, hs, ht⟩ | ⟨rfl, hs, ht⟩ := h
  · have due : s.stepTimedOut d = true := by simp [State.stepTimedOut, hr, hs, ht]
    exact whenDue_true (effect := fun s => s.enterFaulted d) due
  · have due : s.suspendTimedOut d = true := by simp [State.suspendTimedOut, hr, hs, ht]
    exact whenDue_true (effect := fun s => s.enterFaulted d) due

/-- Settles O47: both expiries are the fault; then the sequencer records, the bus, and one entry at a time. -/
theorem timerExpiryFaultsTheDevice : Obligations.TimerExpiryFaultsTheDevice := by
  intro s d c hr form waits due
  have seq := s.seq_enterFaulted d
  have entry : ∀ {p k}, (s.entry p k).state ≠ .waiting → _ := fun {p k} h =>
    State.entry_enterFaulted waits form (d := d) (q := p) (j := k) h
  refine ⟨_, exec_timerExpiry hr due, ?_, ?_, ?_, ?_, ?_, ?_, ?_, ?_, ?_, ?_, s.seq_enterFaulted_other d, ?fault,
    fun x hx hd => ?bus, fun p k hd hs => ?ended, fun p k hd hs => ?drained, fun p k hd hs => ?other, ?frame⟩
  case fault => exact State.deviceFault_of_faulted (d := d) (by rw [seq]; rfl)
  case bus => rw [State.bus_enterFaulted, Bus.discarded_own hx hd]
  case ended =>
    have inLine : (s.entry p k).state.inLine = true := by obtain h | h := hs <;> rw [h] <;> rfl
    rw [entry (by obtain h | h := hs <;> rw [h] <;> decide), if_pos ⟨inLine, hd⟩]
    refine ⟨(Entry.ended_of_open hs _).1, (Entry.ended_of_open hs _).2.trans ?_⟩
    simp only [faultResult, beq_iff_eq]
  case drained =>
    rw [entry (by rw [hs]; decide), if_pos ⟨by rw [hs]; rfl, hd⟩, Entry.ended_of_draining hs]
  case other => rw [entry hs, if_neg fun e => hd e.2]
  case frame =>
    conv_lhs => rw [show s.enterFaulted d = _ from s.enterFaulted_endWork d]
    rw [s.seqs_enterFaulted d, s.bus_enterFaulted d]
    rfl
  all_goals simp only [seq, Sequencer.faulted]

end Sys2Proof.Machine
end

section
/-! The flash bus cycle by cycle: its pins, phases, lanes and samples, the cycles of transactions, and the step on an empty
queue (R97 to R100): O33 and O2. -/

namespace Sys2Proof.Machine

/-! ### Whether a transaction is shifting (R95, R97) -/

/-- No chip select is asserted: the bus is idle, the gap runs, or the last cycle has passed (R97). -/
def Bus.Between (b : Bus) : Prop :=
  b.cur = none ∨ b.gap ≠ 0 ∨ ∃ t, b.cur = some t ∧ t.txn.cycles * t.divider ≤ t.elapsed

theorem Bus.shifting_between {b : Bus} (h : b.Between) : b.shifting = none := by
  unfold Bus.shifting
  obtain hc | hg | ⟨t, hc, hl⟩ := h
  · rw [hc]
  · split
    · rfl
    · exact if_neg fun e => hg e.1
  · rw [hc]
    exact if_neg fun e => Nat.not_lt.mpr hl e.2

theorem Bus.shifting_some {b : Bus} {t : OnBus} (hg : b.gap = 0) (hc : b.cur = some t)
    (hl : t.elapsed < t.txn.cycles * t.divider) : b.shifting = some t := by
  unfold Bus.shifting
  rw [hc]
  exact if_pos ⟨hg, hl⟩

/-- Between transactions both chip selects are high, FCLK is low and the lanes rest (R97 to R99). -/
theorem Bus.pins_between {b : Bus} (h : b.Between) :
    (∀ d, b.chipSelect d = true) ∧ b.fclk = false ∧ b.phase = none ∧ b.lanes = .between := by
  have none := Bus.shifting_between h
  refine ⟨fun d => ?_, ?_, ?_, ?_⟩
  · unfold Bus.chipSelect; rw [none]
  · unfold Bus.fclk; rw [none]
  · unfold Bus.phase; rw [none]; rfl
  · unfold Bus.lanes; rw [none]

/-- In a transaction the pins follow the FCLK cycle that it has reached (R97 to R99). -/
theorem Bus.pins_shifting {b : Bus} {t : OnBus} (h : b.shifting = some t) :
    (∀ d, b.chipSelect d = decide (d ≠ t.dev)) ∧
    b.fclk = decide (t.divider - t.divider / 2 ≤ t.elapsed % t.divider) ∧
    b.phase = t.txn.phaseAt (t.elapsed / t.divider) ∧ b.lanes = t.txn.lanesAt (t.elapsed / t.divider) := by
  refine ⟨fun d => ?_, ?_, ?_, ?_⟩
  · unfold Bus.chipSelect
    rw [h]
    by_cases e : d = t.dev
    · simp [e]
    · simp [e, Ne.symm e]
  · unfold Bus.fclk; rw [h]
  · unfold Bus.phase; rw [h]; rfl
  · unfold Bus.lanes; rw [h]

/-! ### Phases (R97) -/

theorem Transaction.phaseAt_command (t : Transaction) {k : Nat} (h : k < t.commandCycles) :
    t.phaseAt k = some (.command, k) := if_pos h

theorem Transaction.phaseAt_address (t : Transaction) {k : Nat} (h : k < t.addressCycles) :
    t.phaseAt (t.commandCycles + k) = some (.address, k) := by
  unfold Transaction.phaseAt
  rw [if_neg (by omega)]
  simp only [Nat.add_sub_cancel_left, h, if_true]

theorem Transaction.phaseAt_dummy (t : Transaction) {k : Nat} (h : k < t.dummy) :
    t.phaseAt (t.commandCycles + t.addressCycles + k) = some (.dummy, k) := by
  unfold Transaction.phaseAt
  have after : ¬ t.addressCycles + k < t.addressCycles := by omega
  rw [if_neg (by omega)]
  simp only [Nat.add_assoc, Nat.add_sub_cancel_left, after, h, if_true, if_false]

theorem Transaction.phaseAt_end (t : Transaction) {k : Nat} (h : t.cycles ≤ k) : t.phaseAt k = none := by
  unfold Transaction.cycles at h
  unfold Transaction.phaseAt
  dsimp only
  rw [if_neg (by omega), if_neg (by omega), if_neg (by omega), if_neg (by omega)]

theorem Transaction.commandCycles_eq (t : Transaction) : t.commandCycles = 8 / t.lanes.cmd.toNat := Nat.one_mul _

/-! ### Lanes (R99) -/

theorem Transaction.lanesAt_command {t : Transaction} {c k : Nat} (h : t.phaseAt c = some (.command, k)) :
    t.lanesAt c = outLanes t.lanes.cmd [t.opcode] k := by
  unfold Transaction.lanesAt; rw [h]

theorem Transaction.lanesAt_address {t : Transaction} {c k : Nat} (h : t.phaseAt c = some (.address, k)) :
    t.lanesAt c = outLanes t.lanes.addr t.addressWire k := by
  unfold Transaction.lanesAt; rw [h]

theorem Transaction.lanesAt_dummy {t : Transaction} {c k : Nat} (h : t.phaseAt c = some (.dummy, k)) :
    t.lanesAt c = if t.lanes.data = .four then ⟨.released, .released, .released, .released⟩
      else ⟨.released, .released, .drive true, .drive true⟩ := by
  unfold Transaction.lanesAt
  rw [h]
  cases t.lanes.data <;> rfl

theorem Transaction.lanesAt_out {t : Transaction} {c k : Nat} (h : t.phaseAt c = some (.data, k)) (hin : t.inCount = 0) :
    t.lanesAt c = outLanes t.lanes.data t.out k := by
  unfold Transaction.lanesAt
  rw [h]
  exact if_pos hin

/-- In a data phase in the part releases the lanes that the device drives (R99). -/
theorem Transaction.lanesAt_in {t : Transaction} {c k : Nat} (h : t.phaseAt c = some (.data, k)) (hin : t.inCount ≠ 0) :
    (t.lanes.data = .one → t.lanesAt c = ⟨.drive t.lastOnFd0, .released, .drive true, .drive true⟩) ∧
    (t.lanes.data = .two → t.lanesAt c = ⟨.released, .released, .drive true, .drive true⟩) ∧
    (t.lanes.data = .four → t.lanesAt c = ⟨.released, .released, .released, .released⟩) := by
  unfold Transaction.lanesAt
  simp only [h, if_neg hin]
  refine ⟨fun e => ?_, fun e => ?_, fun e => ?_⟩ <;> rw [e]

/-- Cycle i of byte j, at n cycles a byte. -/
theorem byte_of_cycle {bytes : List Byte} {b : Byte} {j n i : Nat} (h : bytes[j]? = some b) (hi : i < n) :
    bytes.getD ((n * j + i) / n) 0#8 = b ∧ (n * j + i) % n = i := by
  rw [Nat.mul_add_div (Nat.zero_lt_of_lt hi), Nat.div_eq_of_lt hi, Nat.mul_add_mod, Nat.mod_eq_of_lt hi, Nat.add_zero,
    List.getD_eq_getElem?_getD, h]
  exact ⟨rfl, rfl⟩

theorem outLanes_one {bytes : List Byte} {b : Byte} {j i : Nat} (h : bytes[j]? = some b) (hi : i < 8) :
    outLanes .one bytes (8 * j + i) = ⟨.drive (b.getLsbD (7 - i)), .released, .drive true, .drive true⟩ := by
  obtain ⟨byte, bit⟩ := byte_of_cycle h hi
  simp only [outLanes, LaneCount.toNat, Nat.div_one, byte, bit]

theorem outLanes_two {bytes : List Byte} {b : Byte} {j i : Nat} (h : bytes[j]? = some b) (hi : i < 4) :
    outLanes .two bytes (4 * j + i) =
      ⟨.drive (b.getLsbD (6 - 2 * i)), .drive (b.getLsbD (7 - 2 * i)), .drive true, .drive true⟩ := by
  obtain ⟨byte, bit⟩ := byte_of_cycle h hi
  simp only [outLanes, LaneCount.toNat, Nat.reduceDiv, byte, bit]

theorem outLanes_four {bytes : List Byte} {b : Byte} {j i : Nat} (h : bytes[j]? = some b) (hi : i < 2) :
    outLanes .four bytes (2 * j + i) =
      ⟨.drive (b.getLsbD (4 - 4 * i)), .drive (b.getLsbD (5 - 4 * i)), .drive (b.getLsbD (6 - 4 * i)),
       .drive (b.getLsbD (7 - 4 * i))⟩ := by
  obtain ⟨byte, bit⟩ := byte_of_cycle h hi
  simp only [outLanes, LaneCount.toNat, Nat.reduceDiv, byte, bit]

/-! ### Samples (R98, R99, R101) -/

/-- In no cycle but one of a data phase in is anything sampled (R98). -/
theorem Transaction.sampledAt_none {t : Transaction} {c : Nat}
    (h : t.inCount = 0 ∨ ∀ k, t.phaseAt c ≠ some (.data, k)) (x : LineLevels) : t.sampledAt c x = [] := by
  unfold Transaction.sampledAt
  split
  · rename_i k hk
    exact if_pos (h.resolve_right fun no => no k hk)
  all_goals rfl

theorem Bus.sampled_between {b : Bus} (h : b.Between) (x : LineLevels) : b.sampled x = [] := by
  unfold Bus.sampled
  rw [Bus.shifting_between h]

/-- Sampling is at the rising edge of FCLK alone (R98). -/
theorem Bus.sampled_shifting {b : Bus} {t : OnBus} (h : b.shifting = some t) (x : LineLevels) :
    b.sampled x = if t.elapsed % t.divider = t.divider - t.divider / 2
      then t.txn.sampledAt (t.elapsed / t.divider) x else [] := by
  unfold Bus.sampled
  rw [h]

/-- The bits that the device's lines carry in cycle i of byte j on one, two or four lanes (R99). -/
def LaneCount.Carries (w : LaneCount) (bytes : List Byte) (x : Nat → LineLevels) : Prop :=
  ∀ (j : Nat) (b : Byte), bytes[j]? = some b →
    (w = .one → ∀ i, i < 8 → (x (8 * j + i)).fd1 = b.getLsbD (7 - i)) ∧
    (w = .two → ∀ i, i < 4 →
      (x (4 * j + i)).fd1 = b.getLsbD (7 - 2 * i) ∧ (x (4 * j + i)).fd0 = b.getLsbD (6 - 2 * i)) ∧
    (w = .four → ∀ i, i < 2 →
      (x (2 * j + i)).fd3 = b.getLsbD (7 - 4 * i) ∧ (x (2 * j + i)).fd2 = b.getLsbD (6 - 4 * i) ∧
      (x (2 * j + i)).fd1 = b.getLsbD (5 - 4 * i) ∧ (x (2 * j + i)).fd0 = b.getLsbD (4 - 4 * i))

/-- Lines that carry bytes have, in each cycle, the bits that a device gives for them (R99). -/
theorem LaneCount.Carries.laneBits {w : LaneCount} {bytes : List Byte} {x : Nat → LineLevels} (h : w.Carries bytes x)
    {k : Nat} (hk : k < byteCycles w bytes.length) :
    laneBits w (x k) = laneBits w (deviceLevels w bytes k) := by
  obtain ⟨n, hn⟩ : ∃ n, n = 8 / w.toNat := ⟨_, rfl⟩
  have pos : 0 < n := by rw [hn]; cases w <;> decide
  unfold byteCycles at hk
  rw [← hn] at hk
  have inside : k / n < bytes.length := Nat.div_lt_of_lt_mul (by rwa [Nat.mul_comm])
  have place : n * (k / n) + k % n = k := Nat.div_add_mod k n
  have last : k % n < n := Nat.mod_lt k pos
  have stands : bytes[k / n]? = some bytes[k / n] := List.getElem?_eq_getElem inside
  have byte : bytes.getD (k / n) 0#8 = bytes[k / n] := by rw [List.getD_eq_getElem?_getD, stands]; rfl
  obtain ⟨one, two, four⟩ := h (k / n) bytes[k / n] stands
  cases w with
  | one =>
    obtain rfl : n = 8 := hn
    have fd1 := one rfl (k % 8) last
    rw [place] at fd1
    simp only [Machine.laneBits, deviceLevels, LaneCount.toNat, Nat.div_one, byte, fd1]
  | two =>
    obtain rfl : n = 4 := hn
    obtain ⟨fd1, fd0⟩ := two rfl (k % 4) last
    rw [place] at fd1 fd0
    simp only [Machine.laneBits, deviceLevels, LaneCount.toNat, Nat.reduceDiv, byte, fd1, fd0]
  | four =>
    obtain rfl : n = 2 := hn
    obtain ⟨fd3, fd2, fd1, fd0⟩ := four rfl (k % 2) last
    rw [place] at fd3 fd2 fd1 fd0
    simp only [Machine.laneBits, deviceLevels, LaneCount.toNat, Nat.reduceDiv, byte, fd3, fd2, fd1, fd0]

/-- Settles O33: the pins by whether a transaction is shifting, then phases, lanes and samples each by its lemma. -/
theorem flashBusPinsFollowTheTransaction : Obligations.FlashBusPinsFollowTheTransaction := by
  refine ⟨⟨fun b h => Bus.pins_between h, fun b t hg hc hl => Bus.pins_shifting (Bus.shifting_some hg hc hl)⟩,
    ?phases, ?lanes, fun bytes b j i h => ⟨outLanes_one h, outLanes_two h, outLanes_four h⟩,
    fun b x h => Bus.sampled_between h x, ?sampled, fun t bytes x hin carries => ?received⟩
  case phases =>
    rintro t k _ _ _ rfl rfl rfl
    rw [← t.commandCycles_eq]
    exact ⟨rfl, t.phaseAt_command, t.phaseAt_address, t.phaseAt_dummy, t.phaseAt_data, t.phaseAt_end⟩
  case lanes =>
    refine fun t c k => ⟨Transaction.lanesAt_command, fun h h4 => ?_, fun h h3 => ?_, Transaction.lanesAt_dummy,
      Transaction.lanesAt_out, Transaction.lanesAt_in⟩
    · rw [Transaction.lanesAt_address h, Transaction.addressWire, h4]
      rfl
    · rw [Transaction.lanesAt_address h, Transaction.addressWire, h3]
  case sampled =>
    intro b x t hg hc hl
    rw [Bus.sampled_shifting (Bus.shifting_some hg hc hl) x]
    refine ⟨fun edge => if_neg edge, fun edge => ?_⟩
    rw [if_pos edge]
    refine ⟨fun k hk hin => ?_, fun h => Transaction.sampledAt_none h x⟩
    rw [Transaction.sampledAt_data _ hk hin]
    refine ⟨fun e => ?_, fun e => ?_, fun e => ?_⟩ <;> rw [e] <;> rfl
  case received =>
    have h : t.lanes.data.Carries bytes x := carries
    exact t.received_of_carries bytes hin x fun _ => h.laneBits

/-! ### Cycles of transactions (R97, R100) -/

theorem byteCycles_le (w : LaneCount) (n : Nat) : byteCycles w n ≤ n * 8 :=
  Nat.mul_le_mul_left n (Nat.div_le_self 8 _)

theorem cycles_readData (use : BusUse) (p : Profile) (a : Word) (n : Nat) :
    (readData use p a n).cycles = byteCycles p.readLanes.cmd 1 + byteCycles p.readLanes.addr p.addressBytes +
      p.readDummy + byteCycles p.readLanes.data n := by
  simp only [Transaction.cycles, Transaction.commandCycles, Transaction.addressCycles, Transaction.dataCycles,
    readData, List.length_nil, Nat.zero_add]

theorem cycles_pageProgram (p : Profile) (a : Word) (data : List Byte) :
    (pageProgram p a data).cycles = byteCycles p.programLanes.cmd 1 +
      byteCycles p.programLanes.addr p.addressBytes + byteCycles p.programLanes.data data.length := rfl

theorem cycles_sectorErase (p : Profile) (a : Word) : (sectorErase p a).cycles = 8 + p.addressBytes * 8 := by
  simp only [Transaction.cycles, Transaction.commandCycles, Transaction.addressCycles, Transaction.dataCycles,
    sectorErase, opcodeOnly, Lanes.single, byteCycles, LaneCount.toNat, List.length_nil, Nat.zero_mul, Nat.add_zero,
    Nat.one_mul, Nat.div_one]

/-- What R119 lets the cycles of a transaction depend on: at most four address bytes and 15 dummy cycles. -/
theorem Profile.phases_of_valid {p : Profile} (h : p.valid = true) : p.addressBytes ≤ 4 ∧ p.readDummy ≤ 15 := by
  simp only [Profile.valid, Bool.and_eq_true, Bool.or_eq_true, beq_iff_eq, decide_eq_true_eq] at h
  omega

/-! ### The internal clock (R97, R98) -/

theorem step_of_empty {s : State} (h : s.pending = []) : step s = .next s.idle := by
  unfold step; rw [h]

/-- A low RESETN holds the bus (R189). -/
theorem State.idle_held {s : State} (h : s.resetn = false) : s.idle = s := if_neg (by simp [h])

theorem State.idle_clocked {s : State} (h : s.resetn = true) : s.idle = s.setBus s.bus.clock := if_pos h

theorem Bus.clock_gap {b : Bus} (h : b.gap ≠ 0) : b.clock = { b with gap := b.gap - 1 } := if_pos h

theorem Bus.clock_free {b : Bus} (hg : b.gap = 0) (hc : b.cur = none) : b.clock = b := by
  unfold Bus.clock
  rw [if_neg (by simp [hg]), hc]

/-- A transaction in progress is shifted up to its last cycle (R97). -/
theorem Bus.clock_shifts {b : Bus} {t : OnBus} (hg : b.gap = 0) (hc : b.cur = some t) (hl : t.elapsed < t.length) :
    b.clock = { b with cur := some { t with elapsed := t.elapsed + 1 } } := by
  unfold Bus.clock
  rw [if_neg (by simp [hg]), hc]
  exact if_pos hl

theorem Bus.clock_stands {b : Bus} {t : OnBus} (hg : b.gap = 0) (hc : b.cur = some t) (hl : t.length ≤ t.elapsed) :
    b.clock = b := by
  unfold Bus.clock
  rw [if_neg (by simp [hg]), hc]
  exact if_neg (Nat.not_lt.mpr hl)

/-- Settles O2: the idle step by what the clock does to the bus; the cycles as sums over the phases. -/
theorem busCyclesAndDurations : Obligations.BusCyclesAndDurations := by
  refine ⟨fun s he => ?_, rfl, rfl, cycles_sectorErase _, fun a data h => ?_,
    fun use a => (cycles_readData ..).trans rfl, fun use a => (cycles_readData ..).trans rfl,
    fun p use a n hv hn => ?_, fun p a data hv hd => ?_, fun _ => rfl⟩
  · rw [step_of_empty he]
    refine ⟨fun hr => by rw [State.idle_held hr], fun hr hg => ?gap, fun hr hg hc => ?free, fun t hr hg hc hl => ?shift,
      fun t hr hg hc hl => ?stand⟩
    all_goals rw [State.idle_clocked hr]
    case gap => rw [Bus.clock_gap hg]
    case free => rw [Bus.clock_free hg hc]; rfl
    case shift => rw [Bus.clock_shifts hg hc hl]
    case stand => rw [Bus.clock_stands hg hc hl]; rfl
  · rw [cycles_pageProgram, h]
    rfl
  · obtain ⟨addressBytes, dummy⟩ := Profile.phases_of_valid hv
    have command := byteCycles_le p.readLanes.cmd 1
    have address := byteCycles_le p.readLanes.addr p.addressBytes
    have data := byteCycles_le p.readLanes.data n
    rw [cycles_readData]
    omega
  · obtain ⟨addressBytes, -⟩ := Profile.phases_of_valid hv
    have command := byteCycles_le p.programLanes.cmd 1
    have address := byteCycles_le p.programLanes.addr p.addressBytes
    have bytes := byteCycles_le p.programLanes.data data.length
    rw [cycles_pageProgram]
    omega

end Sys2Proof.Machine
end

section
/-! Requests and grants of the bus and transactions whose result is discarded (R89, R91, R96, R98, R101), and the poll turn
(R86, R104, R106): O39 and O45. -/

namespace Sys2Proof.Machine

/-! ### Requests and grants (R96) -/

theorem State.place_granted {s : State} {d : Dev} (hc : s.bus.cur = none)
    (ho : (s.seq (otherDev d)).busRequest = none) (t : Transaction) : s.place d t = s.grantBus d t :=
  if_pos (by simp [hc, ho])

theorem State.place_waits {s : State} {d : Dev} (h : s.bus.cur ≠ none ∨ (s.seq (otherDev d)).busRequest ≠ none)
    (t : Transaction) : s.place d t = s.setSeq d { s.seq d with busRequest := some t } := by
  refine if_neg fun e => ?_
  rw [Bool.and_eq_true, Option.isNone_iff_eq_none, Option.isNone_iff_eq_none] at e
  exact h.elim (· e.1) (· e.2)

/-- A bus that is taken is granted to nobody. -/
theorem State.grantNext_taken {s : State} (h : s.bus.cur ≠ none) : s.grantNext = s := by
  unfold State.grantNext
  split
  · rfl
  · exact absurd ‹_› h

/-- A free bus is granted to the device that the pointer prefers (R96). -/
theorem State.grantNext_preferred {s : State} {t : Transaction} (hc : s.bus.cur = none)
    (h : (s.seq s.bus.pointer).busRequest = some t) : s.grantNext = s.grantBus s.bus.pointer t := by
  simp only [State.grantNext, hc, h]

/-- Where that device does not ask, the bus is granted to the other one (R96). -/
theorem State.grantNext_other {s : State} {t : Transaction} (hc : s.bus.cur = none)
    (hp : (s.seq s.bus.pointer).busRequest = none) (h : (s.seq (otherDev s.bus.pointer)).busRequest = some t) :
    s.grantNext = s.grantBus (otherDev s.bus.pointer) t := by
  simp only [State.grantNext, hc, hp, h]

theorem State.grantNext_idle {s : State} (hc : s.bus.cur = none) (h : ∀ d, (s.seq d).busRequest = none) :
    s.grantNext = s := by
  simp only [State.grantNext, hc, h]

theorem otherDev_of_ne {d e : Dev} (h : e ≠ d) : e = otherDev d := by
  cases d <;> cases e <;> first | rfl | exact absurd rfl h

theorem State.grantNext_request {s : State} {d : Dev} {t : Transaction} (hc : s.bus.cur = none)
    (hd : (s.seq d).busRequest = some t) (turn : s.bus.pointer = d ∨ (s.seq (otherDev d)).busRequest = none) :
    s.grantNext = s.grantBus d t := by
  by_cases hp : s.bus.pointer = d
  · subst hp
    exact State.grantNext_preferred hc hd
  · have other : otherDev s.bus.pointer = d := by rw [otherDev_of_ne hp, otherDev_otherDev]
    have silent : (s.seq s.bus.pointer).busRequest = none := by
      rw [otherDev_of_ne hp]
      exact turn.resolve_left hp
    rw [State.grantNext_other hc silent (by rw [other, hd]), other]

/-! ### Transactions whose result is discarded (R89, R91, R101) -/

/-- The end of such a transaction without bytes in. -/
theorem whenDue_endTransaction_discarded {s : State} {d : Dev} {use : BusUse} {n : Nat} {t : OnBus}
    (due : s.endDue d use n = true) (hc : s.bus.cur = some t) (hl : t.live = false) (effect : State → State) :
    whenDue (s.endDue d use n) (fun s => s.endTransaction effect) s = .next s.releaseBus.grantNext := by
  rw [whenDue_true due]
  unfold State.endTransaction
  simp only [hc, hl, Bool.false_eq_true, if_false]

/-- The end of such a transaction with bytes in. -/
theorem whenDue_endReading_discarded {s : State} {d : Dev} {use : BusUse} {n : Nat} {t : OnBus}
    (due : s.endDue d use n = true) (hc : s.bus.cur = some t) (hl : t.live = false) (bytes : List Byte)
    (effect : List Byte → State → State) :
    whenDue (s.endDue d use n) (fun s => s.endReading bytes effect) s = .next s.releaseBus.grantNext := by
  rw [whenDue_true due, State.endReading_discarded hc hl]

/-- Whatever end command it is, it only frees the bus. -/
theorem exec_end_discarded {s : State} {c : Instr} {d : Dev} {use : BusUse} {n : Nat} {t : OnBus}
    (h : endOf c = some (d, use, n)) (due : s.endDue d use n = true) (hc : s.bus.cur = some t) (hl : t.live = false) :
    exec c s = .next s.releaseBus.grantNext := by
  cases c
  case writeEnableEnd | pageProgramEnd | sectorEraseEnd | clearStatusEnd | suspendEnd | resumeEnd |
      resetTransactionEnd =>
    cases h
    exact whenDue_endTransaction_discarded due hc hl _
  case readDataEnd | verifyReadEnd | idReadEnd | latchStatusEnd | pollStatusEnd | suspendingStatusEnd |
      resumingStatusEnd | recoveryStatusEnd =>
    cases h
    exact whenDue_endReading_discarded due hc hl _ _
  all_goals cases h

/-- Settles O39: a request by whether the bus is free, a grant by the pointer, and a discarded transaction by its end. -/
theorem busIsGrantedInTurn : Obligations.BusIsGrantedInTurn := by
  refine ⟨⟨fun s d t => ⟨fun hc ho => State.place_granted hc ho t, fun h => State.place_waits h t⟩,
    fun s d t => State.grantNext_request, fun s h => ?_⟩, fun s c d use n t he hr hc hd hu hn hl => ?_⟩
  · by_cases hc : s.bus.cur = none
    · exact State.grantNext_idle hc (h.resolve_left fun e => e hc)
    · exact State.grantNext_taken hc
  · have due : s.endDue d use n = true := by simp [State.endDue, State.ending, hr, hc, hd, hu, hn]
    exact exec_end_discarded he due hc hl

/-! ### The poll turn (R86, R104, R106) -/

/-- A selection finds something exactly where some port's head passes the test, whichever port was last served (R82). -/
theorem State.pick_isSome_iff {s : State} {d : Dev} {test : Port → Slot → Bool} :
    (s.pick d test).isSome = true ↔ ∃ p k, s.head d p = some k ∧ test p k = true := by
  constructor
  · intro h
    obtain ⟨r, hr⟩ := Option.isSome_iff_exists.mp h
    exact ⟨r.port, r.slot, State.pick_some hr⟩
  · rintro ⟨p, k, hk, ht⟩
    rw [State.pick_eq, List.findSome?_isSome_iff]
    exact ⟨p, mem_portsAfter _ p, by rw [State.offer_some hk ht]; rfl⟩

/-- A QUEUED READ of another port is eligible where none of its bytes lies in the sector of the step (R104). -/
theorem State.eligible_read {s : State} {r : EntryRef} {q : Port} {k : Slot} {b : Byte} {o : Word} {l : Half}
    {e : EpochField} (hq : q ≠ r.port) (hs : (s.entry q k).state = .queued)
    (hr : (s.entry q k).request = some (.read b o l e))
    (apart : s.stepSector (s.entry r.port r.slot) < s.firstByte (s.entry q k) / 4096 ∨
      (s.firstByte (s.entry q k) + l.toNat - 1) / 4096 < s.stepSector (s.entry r.port r.slot)) :
    s.eligible r q k = true := by
  have length : (s.entry q k).readLength = l.toNat := by unfold Entry.readLength; rw [hr]
  have isRead : (s.entry q k).isRead = true := by unfold Entry.isRead; rw [hr]
  have clear : s.readTouches (s.entry q k) (s.stepSector (s.entry r.port r.slot)) = false := by
    unfold State.readTouches
    rw [Bool.and_eq_false_iff, decide_eq_false_iff_not, decide_eq_false_iff_not, Nat.not_le, Nat.not_le, length]
    exact apart
  simp [State.eligible, isRead, hs, hq, clear]

/-- The tests of a suspension (R106). -/
theorem State.suspends_iff {s : State} {d : Dev} {r : EntryRef} :
    s.suspends d r = true ↔ (s.entry r.port r.slot).isErase = true ∧ (s.profile d).suspendSet ≠ none ∧
      (s.seq d).dwellTimer = none ∧ (s.seq d).suspendCount < (s.seq d).stepSuspendLimit ∧
      ∃ q k, s.head d q = some k ∧ s.eligible r q k = true := by
  simp only [State.suspends, Bool.and_eq_true, decide_eq_true_eq, Option.isNone_iff_eq_none,
    Option.isSome_iff_ne_none (o := (s.profile d).suspendSet), State.pick_isSome_iff, and_assoc]

theorem State.pollTurn_suspends {s : State} {d : Dev} {r : EntryRef} {x : SuspendSet}
    (hx : (s.profile d).suspendSet = some x) (h : s.suspends d r = true) :
    s.pollTurn d r = (s.setSeq d { s.seq d with
      state := .suspending, suspendCount := (s.seq d).suspendCount + 1, pollTimer := none }).place d
      (opcodeOnly .suspend x.suspendOp) := by
  simp only [State.pollTurn, hx, h]

theorem State.pollTurn_reads {s : State} {d : Dev} {r : EntryRef} (h : s.suspends d r = false) :
    s.pollTurn d r = (s.setSeq d { s.seq d with pollTimer := none }).place d
      (statusRead .pollStatus (s.profile d)) := by
  unfold State.pollTurn
  rw [h]
  cases (s.profile d).suspendSet <;> rfl

theorem exec_pollTurn {s : State} {d : Dev} {r : EntryRef} (hn : s.resetn = true) (hs : (s.seq d).state = .waitReady)
    (ht : (s.seq d).pollTimer = some 0) (hr : s.Runs d r) : exec (.pollTurn d) s = .next (s.pollTurn d r) := by
  have due : s.pollDue d = true := by simp [State.pollDue, hn, hs, ht]
  rw [← hr.onCurrent fun r => s.pollTurn d r]
  exact whenDue_true (effect := fun s => s.onCurrent d fun r => s.pollTurn d r) due

/-- Settles O45: the poll turn by the tests of a suspension, which fail where any one of them does. -/
theorem pollTurnSuspendsOrReadsStatus : Obligations.PollTurnSuspendsOrReadsStatus := by
  intro s d r hn hs ht hr
  rw [exec_pollTurn hn hs ht hr]
  refine ⟨fun x q k b o l e he hx hdw hlim hq hk hqs hreq apart => ?_, fun h => ?_⟩
  · have eligible := State.eligible_read hq hqs hreq apart
    rw [State.pollTurn_suspends hx
      (State.suspends_iff.mpr ⟨he, by rw [hx]; exact nofun, hdw, hlim, q, k, hk, eligible⟩)]
  · have stays : s.suspends d r = false := by
      rw [Bool.eq_false_iff]
      intro suspends
      obtain ⟨he, hx, hdw, hlim, q, k, hk, eligible⟩ := State.suspends_iff.mp suspends
      obtain h | h | h | h | h := h
      · rw [he] at h; cases h
      · exact hx h
      · exact h hdw
      · exact Nat.not_le.mpr hlim h
      · rw [h q k hk] at eligible; cases eligible
    rw [State.pollTurn_reads stays]

end Sys2Proof.Machine
end

section
/-! A low RESETN (R95, R153, R170, R189): what each command does meanwhile, and O4. -/

namespace Sys2Proof.Machine

/-! ### Commands while RESETN is low -/

/-- No byte is shifted in (R153). -/
theorem State.shifts_held {s : State} (h : s.resetn = false) (p : Port) (phase : Phase) :
    s.shifts p phase = false := by
  simp [State.shifts, h]

/-- No frame arrives (R153). -/
theorem State.frameDue_held {s : State} (h : s.resetn = false) (p : Port) : s.frameDue p = false := by
  simp [State.frameDue, h]

/-- No transaction of the flash bus ends (R95). -/
theorem State.endDue_held {s : State} (h : s.resetn = false) (d : Dev) (use : BusUse) (n : Nat) :
    s.endDue d use n = false := by
  simp [State.endDue, h]

/-- No recovery timer runs out (R189). -/
theorem State.recoveryTimedOut_held {s : State} (h : s.resetn = false) (d : Dev) (phase : RecoveryPhase) :
    s.recoveryTimedOut d phase = false := by
  simp [State.recoveryTimedOut, h]

/-- A request changes nothing. -/
theorem exec_request_held {s : State} (h : s.resetn = false) {c : Instr} {p : Port} {tag : Byte} {q : Request}
    (hc : requestOf c = some (p, tag, q)) : exec c s = .next s := by
  rw [exec_of_requestOf hc]
  exact whenDue_false (by rw [State.frameDue_held h, Bool.false_and])

/-- An event inside the part changes nothing. -/
theorem exec_inner_held {s : State} (h : s.resetn = false) {c : Instr} (hc : isInner c = true) :
    exec c s = .next s := by
  cases c
  all_goals first | (cases hc; done) | simp only [exec]
  case msTick | usTick => exact whenDue_false h
  case leaseExpiry | waitExpiry => exact whenDue_false (by simp [h])
  case pollTurn => exact whenDue_false (by simp [State.pollDue, h])
  case stepTimerExpiry => exact whenDue_false (by simp [State.stepTimedOut, h])
  case dwellTimerExpiry => exact whenDue_false (by simp [State.dwellPassed, h])
  case suspendTimerExpiry => exact whenDue_false (by simp [State.suspendTimedOut, h])
  case recoveryPollTurn => exact whenDue_false (by simp [State.recoveryPollDue, h])
  case recoveryDelayExpiry | recoveryTimerExpiry => exact whenDue_false (State.recoveryTimedOut_held h _ _)
  case readDataEnd | writeEnableEnd | latchStatusEnd | pageProgramEnd | sectorEraseEnd | pollStatusEnd |
      clearStatusEnd | verifyReadEnd | suspendEnd | suspendingStatusEnd | resumeEnd | resumingStatusEnd |
      resetTransactionEnd | recoveryStatusEnd | idReadEnd =>
    exact whenDue_false (State.endDue_held h _ _ _)

/-- A command of a link but for the levels of its select line changes nothing (R153). -/
theorem exec_transport_held {s : State} (h : s.resetn = false) {c : Instr} (hc : isTransport c = true)
    (fall : ∀ p, c ≠ .selectFall p) (rise : ∀ p, c ≠ .selectRise p) : exec c s = .next s := by
  cases c
  all_goals first | (cases hc; done) | simp only [exec]
  case selectFall p => exact absurd rfl (fall p)
  case selectRise p => exact absurd rfl (rise p)
  case put | take | status | linkReset => exact whenDue_false (State.shifts_held h _ _)
  case unknownLead => exact whenDue_false (by rw [State.shifts_held h, Bool.false_and])
  case frameTooLong => exact whenDue_false (by rw [State.frameDue_held h, Bool.false_and])
  case checkMismatch | unknownKind => exact whenDue_false (by rw [State.frameDue_held h, Bool.false_and, Bool.false_and])
  case takeDelivery => exact whenDue_false (by simp [State.itemInTransit, State.shifts_held h])
  case statusFlagsClear => exact whenDue_false (by rw [State.statusByteDue, State.shifts_held h, Bool.false_and])

/-- While RESETN is low only POWER_ON, RESETN_RELEASE and the levels of the select lines change anything (R189). -/
theorem exec_held {s : State} (h : s.resetn = false) {c : Instr} (power : ∀ a b d, c ≠ .powerOn a b d)
    (release : ∀ a b d, c ≠ .resetnRelease a b d) (fall : ∀ p, c ≠ .selectFall p)
    (rise : ∀ p, c ≠ .selectRise p) : exec c s = .next s := by
  cases hq : requestOf c with
  | some x =>
    obtain ⟨p, tag, q⟩ := x
    exact exec_request_held h hq
  | none =>
    cases hi : isInner c
    case true => exact exec_inner_held h hi
    cases ht : isTransport c
    case true => exact exec_transport_held h ht fall rise
    cases c
    all_goals first | (cases hq; done) | (cases hi; done) | (cases ht; done) | simp only [exec]
    case powerOn a b d => exact absurd rfl (power a b d)
    case resetnRelease a b d => exact absurd rfl (release a b d)
    case resetnAssert => exact whenDue_false h
    case linkResetConfirm => exact whenDue_false (State.shifts_held h _ _)

/-! ### The lines while RESETN is low -/

theorem State.selectFallen_held {s : State} (h : s.resetn = false) (p : Port) :
    s.selectFallen p = s.setLink p { s.link p with selectLow := true } := if_neg (by simp [h])

theorem State.selectRisen_held {s : State} (h : s.resetn = false) (p : Port) :
    s.selectRisen p = s.setLink p { s.link p with selectLow := false } := if_neg (by simp [h])

/-- Attention is low and the data outputs are released (R153, R189). -/
theorem State.lines_held {s : State} (h : s.resetn = false) (p : Port) :
    s.attention p = false ∧ s.dataOut p = .released :=
  ⟨by simp [State.attention, h], if_neg (by simp [h])⟩

/-! ### The fall of RESETN -/

theorem State.link_resetAsserted (s : State) (p : Port) : s.resetAsserted.link p = (s.link p).abandoned := by
  cases p <;> rfl

/-- Settles O4: every command by its class; at the fall of RESETN the bus is left between transactions. -/
theorem resetnLowStopsThePart : Obligations.ResetnLowStopsThePart := by
  refine ⟨fun s h => ⟨fun c => exec_held h, fun p hp => ?_, fun p hp => ?_, State.lines_held h⟩, fun s h => ?_⟩
  · rw [← State.selectFallen_held h]
    exact whenDue_true (effect := fun s => s.selectFallen p) (by simp [hp])
  · rw [← State.selectRisen_held h]
    exact whenDue_true (effect := fun s => s.selectRisen p) hp
  · have free : s.resetAsserted.bus.Between := .inl rfl
    obtain ⟨chipSelects, fclk, -, -⟩ := Bus.pins_between free
    exact ⟨s.resetAsserted, whenDue_true h, s.link_resetAsserted, State.lines_held rfl, chipSelects, fclk, rfl⟩

end Sys2Proof.Machine
end

section
/-! The moments of a suspension: the selections among READs and the resume (R109 to R111), and the status bytes read in
SUSPENDING and RESUMING (R107, R113): O49 and O48. -/

namespace Sys2Proof.Machine

/-! ### The selection moment (R109 to R111) -/

/-- The resume with a suspend set (R111). -/
theorem State.resume_eq {s : State} {d : Dev} {x : SuspendSet} (hx : (s.profile d).suspendSet = some x)
    (range : EntryRef) : s.resume d range = (s.setSeq d { s.seq d with
      state := .resuming, current := some range, readQuota := none, readsServed := 0 }).place d
      (opcodeOnly .resume x.resumeOp) := by
  simp only [State.resume, State.profile_setSeq, hx]

/-- A served quota resumes the range, as does a selection that finds no eligible READ (R109). -/
theorem State.selectSuspended_resumes {s : State} {d : Dev} {range : EntryRef}
    (h : (s.seq d).readQuota = some (s.seq d).readsServed ∨ s.pick d (s.eligible range) = none) :
    s.selectSuspended d range = s.resume d range := by
  unfold State.selectSuspended
  dsimp only
  split
  · rfl
  · rename_i below
    rw [h.resolve_left fun e => below (beq_iff_eq.mpr e)]

/-- Below the quota the READ picked is started within the suspension (R109, R110). -/
theorem State.selectSuspended_starts {s : State} {d : Dev} {range r : EntryRef}
    (hq : (s.seq d).readQuota ≠ some (s.seq d).readsServed) (hr : s.pick d (s.eligible range) = some r) :
    s.selectSuspended d range = (s.setSeq d { s.seq d with
      lastServed := r.port, readsServed := (s.seq d).readsServed + 1 }).startRead d r .suspended := by
  unfold State.selectSuspended
  dsimp only
  rw [if_neg (mt beq_iff_eq.mp hq), hr]

/-- An eligible READ is QUEUED (R104). -/
theorem State.queued_of_eligible {s : State} {range : EntryRef} {p : Port} {k : Slot}
    (h : s.eligible range p k = true) : (s.entry p k).state = .queued := by
  simp only [State.eligible, Bool.and_eq_true, beq_iff_eq] at h
  exact h.1.1.2

@[simp] theorem State.setEntry_entry (s : State) (p : Port) (k : Slot) : s.setEntry p k (s.entry p k) = s := by
  have put : (s.exch p).put k (s.entry p k) = s.exch p := by
    simp only [State.entry, Exchange.put, Exchange.entry, Fin.getElem_fin, Vector.set_getElem_self]
  rw [State.setEntry, put, State.setExch, State.exch, PerPort.set_get]

/-- Queueing changes nothing about an entry that is QUEUED. -/
theorem State.queued_of_queued {s : State} {p : Port} {k : Slot} (h : (s.entry p k).state = .queued) :
    s.queued p k = s := by
  have same : { s.entry p k with state := .queued } = s.entry p k := by rw [← h]
  rw [State.queued, same, State.setEntry_entry]

/-- Settles O49: resume by the quota or the want of a READ; else the READ picked is QUEUED, and its start is that of any
queued READ. -/
theorem suspensionServesReadsThenResumes : Obligations.SuspensionServesReadsThenResumes := by
  intro s d range x hx
  refine ⟨fun h => ?_, fun r b o l e hq hr hreq => ?_⟩
  · rw [State.selectSuspended_resumes h, State.resume_eq hx]
  · have queued : s.queued r.port r.slot = s := State.queued_of_queued (State.queued_of_eligible (State.pick_some hr).2)
    have starts := s.startRead_queued r.port r.slot d
      { s.seq d with lastServed := r.port, readsServed := (s.seq d).readsServed + 1 } .suspended
    have address : s.firstByte (s.entry r.port r.slot) = s.baseOf (s.entry r.port r.slot) * 4096 + o.toNat := by
      simp only [State.firstByte, Entry.byteOffset, hreq, Config.sectorBytes]
    have length : (s.entry r.port r.slot).readLength = l.toNat := by simp only [Entry.readLength, hreq]
    rw [queued, address, length] at starts
    exact (State.selectSuspended_starts hq hr).trans starts

/-! ### The status bytes of SUSPENDING (R107) -/

theorem exec_suspendingStatusEnd {s : State} {d : Dev} {b : Byte} {r : EntryRef} (h : s.Ends d .suspendingStatus 1)
    (hr : s.Runs d r) :
    exec (.suspendingStatusEnd d b) s = .next (s.releaseBus.suspendingStatus d r b).grantNext :=
  h.next_status hr fun r b s => s.suspendingStatus d r b

theorem State.suspendingStatus_busy {s : State} {d : Dev} {b : Byte} (h : (s.profile d).busy b = true) (r : EntryRef) :
    s.suspendingStatus d r b = s.place d (statusRead .suspendingStatus (s.profile d)) := if_pos h

theorem State.suspendingStatus_suspended {s : State} {d : Dev} {b : Byte} (hb : (s.profile d).busy b = false)
    (hs : (s.profile d).isSuspended b = true) (r : EntryRef) :
    s.suspendingStatus d r b = s.enterSuspended d r :=
  (if_neg (Bool.eq_false_iff.mp hb)).trans (if_pos hs)

theorem State.suspendingStatus_ended {s : State} {d : Dev} {b : Byte} (hb : (s.profile d).busy b = false)
    (hs : (s.profile d).isSuspended b = false) (r : EntryRef) :
    s.suspendingStatus d r b = s.endedInSuspension d r b :=
  (if_neg (Bool.eq_false_iff.mp hb)).trans (if_neg (Bool.eq_false_iff.mp hs))

/-! ### The status bytes of RESUMING (R113) -/

theorem exec_resumingStatusEnd {s : State} {d : Dev} {b : Byte} {r : EntryRef} (h : s.Ends d .resumingStatus 1)
    (hr : s.Runs d r) :
    exec (.resumingStatusEnd d b) s = .next (s.releaseBus.resumingStatus d r b).grantNext :=
  h.next_status hr fun r b s => s.resumingStatus d r b

theorem State.resumingStatus_suspended {s : State} {d : Dev} {b : Byte} (h : (s.profile d).isSuspended b = true)
    (r : EntryRef) : s.resumingStatus d r b = s.place d (statusRead .resumingStatus (s.profile d)) := if_pos h

theorem State.resumingStatus_running {s : State} {d : Dev} {b : Byte} (hs : (s.profile d).isSuspended b = false)
    (hb : (s.profile d).busy b = true) (r : EntryRef) :
    s.resumingStatus d r b = s.setSeq d (s.seq d).resumed :=
  (if_neg (Bool.eq_false_iff.mp hs)).trans (if_pos hb)

theorem State.resumingStatus_ended {s : State} {d : Dev} {b : Byte} (hs : (s.profile d).isSuspended b = false)
    (hb : (s.profile d).busy b = false) (r : EntryRef) :
    s.resumingStatus d r b = s.endedInSuspension d r b :=
  (if_neg (Bool.eq_false_iff.mp hs)).trans (if_neg (Bool.eq_false_iff.mp hb))

/-- Settles O48: each status byte by its busy bit and its suspended bit, on the released bus; the records of the outcomes
are those of enterSuspended, resumed and endedInSuspension. -/
theorem statusInASuspensionDecides : Obligations.StatusInASuspensionDecides := by
  refine ⟨fun s d r b h hr => ?_, fun s d r b h hr => ?_⟩
  · rw [exec_suspendingStatusEnd h hr]
    refine ⟨fun hb => ?_, fun hb hs => ?_, fun hb hs => ?_⟩
    · rw [State.suspendingStatus_busy (s := s.releaseBus) hb]
      rfl
    · rw [State.suspendingStatus_suspended (s := s.releaseBus) hb hs]
      rfl
    · rw [State.suspendingStatus_ended (s := s.releaseBus) hb hs]
      rfl
  · rw [exec_resumingStatusEnd h hr]
    refine ⟨fun hs => ?_, fun hs hb => ?_, fun hs hb => ?_⟩
    · rw [State.resumingStatus_suspended (s := s.releaseBus) hs]
      rfl
    · rw [State.resumingStatus_running (s := s.releaseBus) hs hb]
      rfl
    · rw [State.resumingStatus_ended (s := s.releaseBus) hs hb]
      rfl

end Sys2Proof.Machine
end

section
/-! What a step does to the settings, the profiles and the Notice Lists (R119, R176, R181), and O57: every command keeps
them in form. -/

namespace Sys2Proof.Machine

/-! ### Settings and profiles -/

/-- A setting that is given a value holds it, and the others stay (R184). -/
theorem Settings.value_assign (x : Settings) (i : Fin 10) (v : Nat) (j : Fin 10) :
    (x.assign i.val v).value j.val = if j = i then some v else x.value j.val := by
  fin_cases i <;> fin_cases j <;> rfl

/-- There are ten settings (R181). -/
theorem settingRange_none {id : Nat} (h : 10 ≤ id) : settingRange id = none := by
  obtain ⟨k, rfl⟩ := Nat.exists_eq_add_of_le' h
  rfl

theorem lt_ten_of_settingAccepts {id v : Nat} (h : settingAccepts id v = true) : id < 10 := by
  by_contra large
  rw [settingAccepts, settingRange_none (Nat.not_lt.mp large)] at h
  cases h

/-- A value in its setting's range keeps all settings in their ranges (R181, R184). -/
theorem Settings.inRange.assign {x : Settings} (h : x.inRange) {id v : Nat} (ok : settingAccepts id v = true) :
    (x.assign id v).inRange := by
  intro j w hw
  have assigned := x.value_assign ⟨id, lt_ten_of_settingAccepts ok⟩ v j
  rw [assigned] at hw
  split at hw
  · rename_i e
    cases hw
    rw [e]
    exact ok
  · exact h j w hw

/-- What the checks of CONFIGURE establish (R184). -/
theorem State.configureCheck_ok {s : State} {p : Port} {id : Byte} {v : Half} {before : Nat}
    (h : s.configureCheck p id v = .ok before) : settingAccepts id.toNat v.toNat = true := by
  unfold State.configureCheck at h
  split at h
  · cases h
  · split at h
    · cases h
    · split at h
      · assumption
      · cases h

/-- A record is read as a profile only where it keeps R119. -/
theorem valid_of_parseProfile {r : ProfileRecord} {f : Profile} (h : parseProfile r = some f) : f.valid = true := by
  simp only [parseProfile, Option.bind_eq_bind, Option.bind_eq_some_iff] at h
  obtain ⟨_, -, _, -, _, -, _, -, _, -, _, -, _, -, _, -, _, -, h⟩ := h
  split at h
  · rename_i ok
    cases h
    exact (Bool.and_eq_true_iff.mp ok).2
  · cases h

/-- The checks of SET_PROFILE pass on a device and a profile that are named (R123). -/
theorem State.profileCheck_ok {s : State} {p : Port} {device : Byte} {record : ProfileRecord} {x : Dev × Profile}
    (h : s.profileCheck p device record = .ok x) : devOf device = some x.1 ∧ parseProfile record = some x.2 := by
  unfold State.profileCheck at h
  split at h
  · cases h
  · split at h
    · rename_i hd hf
      dsimp only at h
      split at h
      · cases h
      · split at h
        · cases h
        · split at h
          · cases h
          · cases h
            exact ⟨hd, hf⟩
    · cases h

/-! ### The records in form -/

/-- The settings lie in their ranges, both profiles keep R119, and no Notice List has two records for a region. -/
structure State.RecordsFormed (s : State) : Prop where
  settings : s.settings.inRange
  profiles : s.profilesValid
  notices  : ∀ p, noticesOnce (s.noticeList p)

theorem State.RecordsFormed.holds {s t : State} (h : s.RecordsFormed) (k : s.Holds t) : t.RecordsFormed where
  settings := by rw [k.settings]; exact h.settings
  profiles d := by unfold State.profile; rw [k.profiles]; exact h.profiles d
  notices p := k.notices p (h.notices p)

theorem State.RecordsFormed.keeps {s t : State} (h : s.RecordsFormed) (k : s.Keeps t) : t.RecordsFormed :=
  h.holds k.holds

/-- An update of other records. -/
theorem State.RecordsFormed.of_same {s t : State} (h : s.RecordsFormed) (settings : t.settings = s.settings)
    (profiles : t.profiles = s.profiles) (notices : t.notices = s.notices) : t.RecordsFormed where
  settings := by rw [settings]; exact h.settings
  profiles d := by unfold State.profile; rw [profiles]; exact h.profiles d
  notices p := by rw [State.noticeList_of_notices notices]; exact h.notices p

/-- An action of the Region Table that posts nothing. -/
theorem State.RecordsFormed.work {s t : State} (h : s.RecordsFormed) (k : s.TableWork t)
    (notices : t.notices = s.notices) : t.RecordsFormed :=
  h.of_same k.settings (by rw [show t = _ from k]) notices

theorem State.RecordsFormed.setNotices {s : State} (h : s.RecordsFormed) (p : Port) {l : List Notice}
    (once : noticesOnce l) : (s.setNotices p l).RecordsFormed where
  settings := h.settings
  profiles := h.profiles
  notices q := by
    rw [State.noticeList_setNotices]
    split
    · exact once
    · exact h.notices q

theorem State.RecordsFormed.setProfile {s : State} (h : s.RecordsFormed) (d : Dev) {f : Profile}
    (valid : f.valid = true) : (s.setProfile d f).RecordsFormed where
  settings := h.settings
  profiles e := by
    have read : (s.setProfile d f).profile e = if e = d then f else s.profile e := PerDev.get_set ..
    rw [read]
    split
    · exact valid
    · exact h.profiles e
  notices := h.notices

/-! ### Requests -/

theorem State.RecordsFormed.checked {α : Type} {s : State} (h : s.RecordsFormed) (p : Port) (k : Slot)
    {check : Except Result α} {act : α → State} (ha : ∀ a, check = .ok a → (act a).RecordsFormed) :
    (s.checked p k check act).RecordsFormed := by
  cases hc : check with
  | error r => exact h.of_same rfl rfl rfl
  | ok a => exact ha a hc

theorem State.RecordsFormed.claim {s : State} (h : s.RecordsFormed) (p : Port) (k : Slot) (n : RegionId)
    (term wait : Half) : (s.claimAccepted p k n term wait).RecordsFormed := by
  unfold State.claimAccepted
  dsimp only
  split
  · exact h.holds (s.grant_holds n p k _)
  · split
    · exact h.of_same rfl rfl rfl
    · split <;> exact h.of_same rfl rfl rfl

theorem State.RecordsFormed.release {s : State} (h : s.RecordsFormed) (p : Port) (k : Slot) (n : RegionId) :
    (s.released p k n).RecordsFormed := by
  unfold State.released
  dsimp only
  split
  · exact h.keeps (s.leaseEnd_keeps n p _)
  · exact h.of_same rfl rfl rfl

theorem State.RecordsFormed.enqueue {s : State} (h : s.RecordsFormed) (p : Port) (k : Slot) (d : Dev) :
    (s.enqueue p k d).RecordsFormed := by
  have queued : (s.setEntry p k { s.entry p k with state := .queued }).RecordsFormed := h.of_same rfl rfl rfl
  unfold State.enqueue
  dsimp only
  split
  · exact queued.keeps (State.selectIdle_keeps _ d)
  · exact queued

/-- A retirement posts to the ex-holder and to the watchers (R21 item 5). -/
theorem State.postRetired_keeps (s : State) (n : RegionId) (r : Region) : s.Keeps (s.postRetired n r) := by
  unfold State.postRetired
  cases r.holder with
  | none => exact s.postSet_keeps _ _
  | some p => exact (s.post_keeps p _).trans (State.postSet_keeps _ _ _)

theorem State.RecordsFormed.retireAction {s : State} (h : s.RecordsFormed) (n : RegionId) :
    (s.retireAction n).RecordsFormed := by
  rw [State.retireAction_eq]
  exact ((h.work (s.retireWork_work n) (s.retireWork_notices n)).keeps
    (State.postRetired_keeps _ n (s.region n))).of_same rfl rfl rfl

theorem State.RecordsFormed.retire {s : State} (h : s.RecordsFormed) (p : Port) (k : Slot) (n : RegionId) :
    (s.retire p k n).RecordsFormed := by
  have retired := h.retireAction n
  unfold State.retire
  dsimp only
  split
  · exact retired.of_same rfl rfl rfl
  · exact (retired.keeps (State.freeRegion_keeps _ n)).of_same rfl rfl rfl

theorem State.pruneRights_keeps (s : State) (n : RegionId) (wr : PortSet) : s.Keeps (s.pruneRights n wr) := by
  unfold State.pruneRights
  refine (foldl_keeps State.Keeps .refl .trans
    (fun s q => if wr.has q then s else s.dropClaim n q .noRight) allPorts (fun t q _ => ?_) s).trans ?_
  · split
    · exact .refl t
    · exact t.dropClaim_keeps n q _
  · dsimp only
    split
    · exact .refl _
    · split
      · exact .refl _
      · exact State.leaseLoss_keeps _ n _ false

theorem State.RecordsFormed.rightsSet {s : State} (h : s.RecordsFormed) (p : Port) (k : Slot) (n : RegionId)
    (rr wr : PortSet) : (s.rightsSet p k n rr wr).RecordsFormed := by
  have written : State.RecordsFormed { s.setRegion n { s.region n with readRights := rr, writeRights := wr } with
    epoch := s.epoch + 1#16 } := h.of_same rfl rfl rfl
  have pruned := written.keeps
    (State.inAdmissionOrder_keeps _ (fun t => t.pruneRights n wr) (State.pruneRights_keeps _ n wr))
  exact pruned.of_same rfl rfl rfl

theorem State.RecordsFormed.cancelled {s : State} (h : s.RecordsFormed) (p : Port) (k : Slot) (target : Byte) :
    (s.cancelled p k target).RecordsFormed := by
  unfold State.cancelled
  split
  · exact h.of_same rfl rfl rfl
  · rename_i j _
    dsimp only
    split
    · unfold State.cancelQueued
      have answered : ((s.answer p j .cancelled).answer p k .done).RecordsFormed := h.of_same rfl rfl rfl
      dsimp only
      split
      · exact answered
      · exact answered.keeps (State.leaveRelease_keeps _ p j _)
    · split
      · unfold State.cancelClaim
        split
        · exact h.of_same rfl rfl rfl
        · exact (h.keeps (s.dropClaim_keeps _ p _)).of_same rfl rfl rfl
      · split
        · exact (h.keeps (s.requestStop_keeps p j _)).of_same rfl rfl rfl
        · exact h.of_same rfl rfl rfl

/-- The action of every request keeps the records in form: SET_PROFILE and CONFIGURE write what their checks have passed,
every other kind leaves settings and profiles, and posts where it posts. -/
theorem Request.act_recordsFormed (q : Request) (p : Port) (k : Slot) {s : State} (h : s.RecordsFormed) :
    (q.act p k s).RecordsFormed := by
  cases q with
  | claim r t w => exact h.checked p k fun n _ => h.claim p k n t w
  | renew r t => exact h.checked p k fun n _ => h.of_same rfl rfl rfl
  | release r => exact h.checked p k fun n _ => h.release p k n
  | watch r => exact h.checked p k fun n _ => h.of_same rfl rfl rfl
  | unwatch r => exact h.checked p k fun n _ => h.of_same rfl rfl rfl
  | findNumber r => exact h.checked p k fun n _ => h.of_same rfl rfl rfl
  | findAddress d a => exact h.checked p k fun n _ => h.of_same rfl rfl rfl
  | findLabel l => exact h.checked p k fun n _ => h.of_same rfl rfl rfl
  | read r o n e => exact h.checked p k fun d _ => h.enqueue p k d
  | program r o f e b => exact h.checked p k fun d _ => h.enqueue p k d
  | erase r f n e => exact h.checked p k fun d _ => h.enqueue p k d
  | define d b n l rr wr m => exact h.checked p k fun x _ => h.of_same rfl rfl rfl
  | retire r => exact h.checked p k fun n _ => h.retire p k n
  | setRights r rr wr => exact h.checked p k fun x _ => h.rightsSet p k x.1 x.2.1 x.2.2
  | setProfile d f =>
    refine h.checked p k fun x hx => ?_
    have valid := valid_of_parseProfile (State.profileCheck_ok hx).2
    exact ((h.setProfile x.1 valid).keeps (State.setSeq_keeps _ x.1 _)).keeps (State.place_keeps _ x.1 _)
  | recover d =>
    exact h.checked p k fun d _ => (h.keeps (s.setSeq_keeps d _)).keeps (State.nextReset_keeps _ d)
  | configure i v =>
    refine h.checked p k fun x hx => ?_
    exact ⟨h.settings.assign (State.configureCheck_ok hx), h.profiles, h.notices⟩
  | cancel x => exact h.cancelled p k x
  | deviceInfo d => exact h.checked p k fun x _ => h.of_same rfl rfl rfl
  | readSetting i => exact h.checked p k fun x _ => h.of_same rfl rfl rfl
  | setAttention m => exact h.checked p k fun x _ => h.of_same rfl rfl rfl
  | unread kind params => exact h

/-! ### The links and the resets -/

theorem State.RecordsFormed.whenDue {s t : State} (h : s.RecordsFormed) {due : Bool} {effect : State → State}
    (k : (effect s).RecordsFormed) (e : whenDue due effect s = .next t) : t.RecordsFormed := by
  unfold Machine.whenDue at e
  cases e
  split
  · exact k
  · exact h

theorem State.RecordsFormed.byteIn {s : State} (h : s.RecordsFormed) (p : Port) (b : Byte)
    (effect : Byte → State → State) (k : ∀ b t, State.RecordsFormed t → (effect b t).RecordsFormed) :
    (s.byteIn p b effect).RecordsFormed :=
  foldl_keeps (fun t u : State => t.RecordsFormed → u.RecordsFormed) (fun _ => id) (fun g k => k ∘ g) _ _
    (fun t b _ => k b t) (s.setLink p _) (h.of_same rfl rfl rfl)

theorem State.RecordsFormed.leadCompletes {s : State} (h : s.RecordsFormed) (p : Port) (lead : Byte) :
    (s.leadCompletes p lead).RecordsFormed := by
  refine h.byteIn p lead _ fun b t ht => ?_
  unfold State.decoded
  split <;> exact ht.of_same rfl rfl rfl

theorem State.RecordsFormed.receiveFrame {s : State} (h : s.RecordsFormed) (p : Port) (bytes : List Byte)
    {next : State → State} (k : ∀ t, State.RecordsFormed t → (next t).RecordsFormed) :
    (s.receiveFrame p bytes next).RecordsFormed := by
  unfold State.receiveFrame
  dsimp only
  split
  · exact k _ (h.of_same rfl rfl rfl)
  · exact h.of_same rfl rfl rfl
  · exact h

/-- A frame that fails test 4 of R138 reaches the link or the Exchange of its port alone (R141). -/
theorem State.RecordsFormed.refuseFrame {s : State} (h : s.RecordsFormed) (p : Port) (tag kind : Byte)
    (device : Option Dev) (region : Option RegionId) (q : Option Request) (payload : List Byte) (r : Result) :
    (s.admitFrame p tag kind device region q payload fun k s => s.answer p k r).RecordsFormed := by
  unfold State.admitFrame
  split
  · exact h.of_same rfl rfl rfl
  · split
    · exact h.of_same rfl rfl rfl
    · split <;> exact h.of_same rfl rfl rfl

/-- A notice that is delivered leaves its list (R160). -/
theorem State.RecordsFormed.delivered {s : State} (h : s.RecordsFormed) (p : Port) (item : TakeItem) :
    (s.delivered p item).RecordsFormed := by
  cases item with
  | answer k => exact h.of_same rfl rfl rfl
  | notice r => exact h.setNotices p ((h.notices p).sublist (List.erase_sublist.map _))
  | empty => exact h

/-- A command of a host link other than a request or a port reset. -/
theorem exec_recordsFormed_of_transport {c : Instr} (hc : isTransport c = true) {s t : State} (h : s.RecordsFormed)
    (e : exec c s = .next t) : t.RecordsFormed := by
  cases c
  all_goals first | (cases hc; done) | simp only [exec] at e
  case selectFall p => exact h.whenDue (by unfold State.selectFallen; split <;> exact h.of_same rfl rfl rfl) e
  case selectRise p => exact h.whenDue (by unfold State.selectRisen; split <;> exact h.of_same rfl rfl rfl) e
  case unknownLead p lead => exact h.whenDue (h.leadCompletes p _) e
  case put p => exact h.whenDue (h.leadCompletes p _) e
  case take p => exact h.whenDue (h.leadCompletes p _) e
  case status p => exact h.whenDue (h.leadCompletes p _) e
  case linkReset p => exact h.whenDue (h.leadCompletes p _) e
  case frameTooLong p tag kind declared => exact h.whenDue (h.receiveFrame p _ fun _ => id) e
  case checkMismatch p tag kind params check => exact h.whenDue (h.receiveFrame p _ fun _ => id) e
  case unknownKind p tag kind params =>
    exact h.whenDue (h.receiveFrame p _ fun t ht => ht.refuseFrame p _ _ _ _ _ _ _) e
  case takeDelivery p =>
    refine h.whenDue ?_ e
    dsimp only
    split
    · exact h
    · refine State.RecordsFormed.delivered ?_ p _
      exact h.of_same rfl rfl rfl
  case statusFlagsClear p => exact h.whenDue (h.of_same rfl rfl rfl) e

/-- The port reset empties the port's Notice List; the leases that end post to the others (R37, R166). -/
theorem State.RecordsFormed.portReset {s : State} (h : s.RecordsFormed) (p : Port) : (s.portReset p).RecordsFormed := by
  have cleared : (s.portCleared p).RecordsFormed :=
    (h.setNotices p (l := []) List.nodup_nil).of_same rfl rfl rfl
  rw [State.portReset_eq]
  exact cleared.keeps (State.inAdmissionOrder_keeps _ _ (State.endLeases_keeps _ p))

theorem Profile.default_valid : Profile.default.valid = true := by decide

theorem State.blocksReset_recordsFormed (admin : Option Port) (links : PerPort Link) (pending : List Instr) :
    (State.blocksReset admin links pending).RecordsFormed where
  settings := Settings.initial_inRange
  profiles d := by cases d <;> exact Profile.default_valid
  notices p := by cases p <;> exact List.nodup_nil

theorem State.resetAction_recordsFormed (s : State) (admin : Option Port) (first : Dev) :
    (s.resetAction admin first).RecordsFormed :=
  ((State.blocksReset_recordsFormed admin _ _).keeps (State.place_keeps _ first _)).keeps (State.place_keeps _ _ _)

/-! ### Every step -/

/-- Every command keeps the records in form: a request by its kind's action, an event inside the part by State.Keeps, a
command of a link by what it delivers, and a reset by the records it writes. -/
theorem exec_recordsFormed {c : Instr} {s t : State} (h : s.RecordsFormed) (e : exec c s = .next t) :
    t.RecordsFormed := by
  cases hq : requestOf c with
  | some x =>
    obtain ⟨p, tag, q⟩ := x
    rw [exec_of_requestOf hq] at e
    exact request_induction e h (fun l => h.of_same rfl rfl rfl)
      fun k l x => Request.act_recordsFormed q p k (h.of_same rfl rfl rfl)
  | none =>
    cases hi : isInner c
    case true => exact h.keeps (exec_keeps_of_inner hi e)
    cases ht : isTransport c
    case true => exact exec_recordsFormed_of_transport ht h e
    cases c
    all_goals first | (cases hq; done) | (cases hi; done) | (cases ht; done) | simp only [exec] at e
    case powerOn a b d =>
      cases e
      exact s.resetAction_recordsFormed _ d
    case resetnAssert => exact h.whenDue (h.of_same rfl rfl rfl) e
    case resetnRelease a b d => exact h.whenDue (s.resetAction_recordsFormed _ d) e
    case linkResetConfirm p b =>
      refine h.whenDue (h.byteIn p b _ fun b t ht => ?_) e
      have link : (t.setLink p { t.link p with phase := .ignored, count := 0 }).RecordsFormed := ht.of_same rfl rfl rfl
      dsimp only
      split
      · exact link.portReset p
      · exact link

/-- Settles O57: the idle step reaches the bus alone, and every command keeps the records in form. -/
theorem stepsKeepSettingsProfilesAndNotices : Obligations.StepsKeepSettingsProfilesAndNotices := by
  intro s t settings profiles notices e
  have h : s.RecordsFormed := ⟨settings, profiles, notices⟩
  suffices k : t.RecordsFormed from ⟨k.settings, k.profiles, k.notices⟩
  unfold step at e
  split at e
  · cases e
    unfold State.idle
    split
    · exact h.of_same rfl rfl rfl
    · exact h
  · rename_i rest _
    have h' : State.RecordsFormed { s with pending := rest } := h.of_same rfl rfl rfl
    exact exec_recordsFormed h' e

end Sys2Proof.Machine
end

section
/-! Profile records (R117, R119, R190): each field of the record that DEVICE_INFO reports is read back as it was, and
O53. -/

namespace Sys2Proof.Machine

/-! ### Encodings of single fields (R190) -/

theorem laneOf_toNat (w : LaneCount) : laneOf (BitVec.ofNat 8 w.toNat) = some w := by
  cases w <;> rfl

theorem lanesOf_toNat (l : Lanes) : lanesOf (BitVec.ofNat 8 l.cmd.toNat) (BitVec.ofNat 8 l.addr.toNat)
    (BitVec.ofNat 8 l.data.toNat) = some l := by
  simp [lanesOf, laneOf_toNat]

theorem bitOf_val (i : Fin 8) : bitOf (BitVec.ofNat 8 i.val) = some i := by
  fin_cases i <;> rfl

theorem optionalBitOf_absent : optionalBitOf 0xFF#8 = some none := rfl

theorem optionalBitOf_val (i : Fin 8) : optionalBitOf (BitVec.ofNat 8 i.val) = some (some i) := by
  have present : BitVec.ofNat 8 i.val ≠ 0xFF#8 := by fin_cases i <;> decide
  rw [optionalBitOf, if_neg present, bitOf_val]
  rfl

theorem governed_absent {α : Type} (value : Option α) : governed 0#8 value = some none := rfl

theorem governed_present {α : Type} (a : α) : governed 1#8 (some a) = some (some a) := rfl

/-- The reset opcodes fill the two places of the record from the front, 00h behind them. -/
theorem take_getD_of_length_le_two (l : List Byte) (h : l.length ≤ 2) :
    [l.getD 0 0#8, l.getD 1 0#8].take l.length = l := by
  match l, h with
  | [], _ => rfl
  | [_], _ => rfl
  | [_, _], _ => rfl

/-! ### The fields of a record -/

/-- What R119 says of the fields that the record holds as numbers, and of the reset opcodes. -/
theorem Profile.bounds_of_valid {p : Profile} (h : p.valid = true) : p.capacityExp ≤ 28 ∧ p.addressBytes ≤ 4 ∧
    p.readDummy ≤ 15 ∧ p.resetOps.length ≤ 2 ∧ p.recoveryDelay ≤ 10000 := by
  simp only [Profile.valid, Bool.and_eq_true, Bool.or_eq_true, decide_eq_true_eq, beq_iff_eq] at h
  omega

theorem Profile.record_latchBit (p : Profile) : optionalBitOf p.record.latchBit = some p.latchBit := by
  unfold Profile.record
  cases p.latchBit with
  | none => exact optionalBitOf_absent
  | some i => exact optionalBitOf_val i

theorem Profile.record_failBit (p : Profile) : optionalBitOf p.record.failBit = some p.failBit := by
  unfold Profile.record
  cases p.failBit with
  | none => exact optionalBitOf_absent
  | some i => exact optionalBitOf_val i

theorem Profile.record_busyPolarity (p : Profile) : presenceOf p.record.busyPolarity = some p.busyIsOne := by
  unfold Profile.record
  cases p.busyIsOne <;> rfl

theorem Profile.record_clearOp (p : Profile) :
    governed p.record.clearPresence (some p.record.clearOp) = some p.clearOp := by
  unfold Profile.record
  cases p.clearOp with
  | none => exact governed_absent _
  | some op => exact governed_present op

theorem Profile.record_suspendSet (p : Profile) : governed p.record.suspendPresence
    ((bitOf p.record.suspendedBit).map fun bit =>
      (⟨p.record.suspendOp, p.record.resumeOp, bit⟩ : SuspendSet)) = some p.suspendSet := by
  unfold Profile.record
  cases p.suspendSet with
  | none => exact governed_absent _
  | some x =>
    dsimp only [Option.map_some, Option.getD_some, Option.isSome_some, if_true]
    rw [bitOf_val]
    exact governed_present x

theorem Profile.record_expectedId (p : Profile) : governed p.record.idPresence
    (some (⟨p.record.id0, p.record.id1, p.record.id2⟩ : DeviceId)) = some p.expectedId := by
  unfold Profile.record
  cases p.expectedId with
  | none => exact governed_absent _
  | some i => exact governed_present i

theorem Profile.record_resetLength {p : Profile} (h : p.resetOps.length ≤ 2) :
    p.record.resetLength.toNat = p.resetOps.length :=
  Nat.mod_eq_of_lt (by omega)

theorem length_profileRecord_wire (r : ProfileRecord) : r.wire.length = 34 := rfl

/-- A valid profile is read back from its record (R117, R119, R190). -/
theorem parseProfile_record {p : Profile} (h : p.valid = true) : parseProfile p.record = some p := by
  obtain ⟨capacity, address, dummy, resets, delay⟩ := Profile.bounds_of_valid h
  have lanes : lanesOf p.record.readCmdLanes p.record.readAddrLanes p.record.readDataLanes = some p.readLanes ∧
      lanesOf p.record.progCmdLanes p.record.progAddrLanes p.record.progDataLanes = some p.programLanes :=
    ⟨lanesOf_toNat _, lanesOf_toNat _⟩
  have numbers : p.record.capacity.toNat = p.capacityExp ∧ p.record.addressBytes.toNat = p.addressBytes ∧
      p.record.readDummy.toNat = p.readDummy ∧ p.record.recoveryDelay.toNat = p.recoveryDelay :=
    ⟨Nat.mod_eq_of_lt (by omega), Nat.mod_eq_of_lt (by omega), Nat.mod_eq_of_lt (by omega),
      Nat.mod_eq_of_lt (by omega)⟩
  have busyBit : bitOf p.record.busyBit = some p.busyBit := bitOf_val _
  have opcodes : [p.record.reset0, p.record.reset1].take p.resetOps.length = p.resetOps :=
    take_getD_of_length_le_two _ resets
  simp only [parseProfile, lanes, numbers, busyBit, p.record_busyPolarity, p.record_latchBit, p.record_failBit,
    p.record_clearOp, p.record_suspendSet, p.record_expectedId, Profile.record_resetLength resets, opcodes,
    Option.bind_eq_bind, Option.bind_some]
  exact if_pos (by rw [Bool.and_eq_true]; exact ⟨decide_eq_true resets, h⟩)

/-- Settles O53: the profile field by field, and the widths of the record's fields. -/
theorem profileRecordsRoundTrip : Obligations.ProfileRecordsRoundTrip := fun _ h =>
  ⟨parseProfile_record h, length_profileRecord_wire _⟩

end Sys2Proof.Machine
end

section
/-! The reset of the part (R121, R186, R189): the state that the release of RESETN leaves, and O5. -/

namespace Sys2Proof.Machine

/-- The bus and the sequencers after a reset: the ID read of one device is on the bus, that of the other waits (R121). -/
theorem State.resetAction_eq (s : State) (admin : Option Port) (first : Dev) : s.resetAction admin first =
    { State.blocksReset admin
        ⟨.atReset s.links.a.selectLow, .atReset s.links.b.selectLow, .atReset s.links.c.selectLow⟩ s.pending with
      seqs := (⟨.initial, .initial⟩ : PerDev Sequencer).set (otherDev first)
        { Sequencer.initial with busRequest := some (.idRead 0x9F#8) }
      bus := { cur := some { dev := first, txn := .idRead 0x9F#8, divider := 4, elapsed := 0, live := true },
               pointer := otherDev first, gap := 0 } } := by
  cases first <;> rfl

/-- POWER_ON, and RESETN_RELEASE while RESETN is low, are the reset (R189). -/
theorem exec_reset {s : State} {a1 a0 : Bool} {first : Dev} {c : Instr}
    (h : c = .powerOn a1 a0 first ∨ (c = .resetnRelease a1 a0 first ∧ s.resetn = false)) :
    exec c s = .next (s.resetAction (adminOf a1 a0) first) := by
  obtain rfl | ⟨rfl, held⟩ := h
  · rfl
  · exact whenDue_true (effect := fun s => s.resetAction (adminOf a1 a0) first) (by rw [held]; rfl)

/-- Settles O5: the state after a reset, record by record. -/
theorem releaseTakesTheResetState : Obligations.ReleaseTakesTheResetState := by
  intro s a1 a0 first c h
  refine ⟨_, exec_reset h, ?_⟩
  rw [State.resetAction_eq]
  refine ⟨rfl, rfl, fun p => ?_, fun p => ?_, fun p => ?_, rfl, rfl, rfl, fun d => ?_, rfl, ?_, ?_, rfl⟩
  case refine_1 | refine_2 | refine_3 => cases p <;> rfl
  case refine_4 => cases d <;> rfl
  case refine_5 => cases first <;> rfl
  case refine_6 => exact PerDev.get_set_same ..

end Sys2Proof.Machine
end

section
/-! READ_SETTING, DEVICE_INFO and SET_ATTENTION (R133, R164, R183): O34. -/

namespace Sys2Proof.Machine

/-! ### Entries that a request of another slot leaves -/

/-- What a request comes to: nothing where its frame is not due, the link alone where it fails one of tests 1 to 3 of R138,
and the action of its kind where it is admitted. -/
theorem request_next {p : Port} {tag : Byte} {q : Request} {act : Slot → State → State} {s t : State}
    (e : request p tag q act s = .next t) :
    t = s ∨ (∃ l, t = s.setLink p l) ∨ ∃ k, s.Admits p tag q k ∧ t = act k (s.admitted p tag q k) := by
  cases due : s.frameDue p && acceptsFrame q.code q.wire.length
  · rw [show request p tag q act s = .next s from whenDue_false due] at e
    cases e
    exact .inl rfl
  · rw [Bool.and_eq_true, frameDue_iff] at due
    obtain ⟨⟨resetn, awaits⟩, fits⟩ := due
    have receives : s.Receives p q := ⟨resetn, awaits, fits⟩
    have flagged : ∀ l, (s.received p tag q).setLink p l = s.setLink p l := State.setLink_setLink s p _
    rw [request_received receives] at e
    cases e
    have exch : (s.received p tag q).exch p = s.exch p := rfl
    unfold State.admitFrame
    by_cases tagged : tag = 0#8
    · rw [if_pos tagged]
      exact .inr (.inl ⟨_, flagged _⟩)
    rw [if_neg tagged, exch]
    cases held : (s.exch p).tagHeld tag
    · cases vacant : (s.exch p).vacantSlot with
      | none => exact .inr (.inl ⟨_, flagged _⟩)
      | some k => exact .inr (.inr ⟨k, ⟨receives, tagged, held, vacant⟩, rfl⟩)
    · exact .inr (.inl ⟨_, flagged _⟩)

/-- A request whose kind is checked is answered with the refusal or carried out (R11). -/
theorem State.checked_induction {α : Type} {P : State → Prop} {s : State} {p : Port} {k : Slot}
    {check : Except Result α} {act : α → State} (refused : ∀ r, P (s.answer p k r)) (carried : ∀ a, P (act a)) :
    P (s.checked p k check act) := by
  cases check with
  | error r => exact refused r
  | ok a => exact carried a

/-- A CONFIGURE answers its own entry and leaves every other one (R184). -/
theorem exec_configure_entry {s u : State} {q : Port} {tag id : Byte} {v : Half}
    (e : exec (.configure q tag id v) s = .next u) {p : Port} {k : Slot} (hv : (s.entry p k).state ≠ .vacant) :
    u.entry p k = s.entry p k := by
  rw [exec_of_requestOf (c := .configure q tag id v) rfl] at e
  obtain rfl | ⟨l, rfl⟩ | ⟨j, a, rfl⟩ := request_next e
  · rfl
  · rfl
  · rw [← a.entry_admitted hv]
    exact State.checked_induction (P := fun u => u.entry p k = (s.admitted q tag (.configure id v) j).entry p k)
      (fun _ => (State.entry_answer ..).trans (if_neg (a.other hv)))
      (fun _ => (State.entry_answer ..).trans (if_neg (a.other hv)))

/-- The entry of a request that is answered at its admission is ANSWERED (R142, R144). -/
theorem State.admitted_answer_state (s : State) (p : Port) (tag : Byte) (q : Request) (k : Slot) (r : Result)
    (v : Values) (b : Option (List Byte)) :
    (((s.admitted p tag q k).answer p k r v b).entry p k).state = .answered := by
  rw [State.entry_answer, if_pos ⟨rfl, rfl⟩, State.entry_admitted_same, Entry.answered_of_open rfl]

/-! ### READ_SETTING (R183) -/

/-- A setting of R181 has an identifier below 10. -/
theorem Settings.lt_of_value {x : Settings} {id v : Nat} (h : x.value id = some v) : id < 10 := by
  by_contra large
  obtain ⟨k, rfl⟩ := Nat.exists_eq_add_of_le' (Nat.not_lt.mp large)
  cases h

theorem State.settingValue_setting {s : State} {id : Byte} {v : Nat} (h : s.settings.value id.toNat = some v) :
    s.settingValue id = .ok v := by
  have other : id ≠ 10#8 := by
    rintro rfl
    exact absurd (Settings.lt_of_value h) (by decide)
  rw [State.settingValue, if_neg other, h]

theorem State.settingValue_admin {s : State} {id : Byte} (h : id = 10#8) :
    s.settingValue id = .ok (adminCode s.admin) := if_pos h

theorem State.settingValue_none {s : State} {id : Byte} (h : 11 ≤ id.toNat) :
    s.settingValue id = .error .badSetting := by
  have other : id ≠ 10#8 := by
    rintro rfl
    exact absurd h (by decide)
  have unset : s.settings.value id.toNat = none := by
    rw [Option.eq_none_iff_forall_ne_some]
    intro v hv
    exact absurd (Settings.lt_of_value hv) (by omega)
  rw [State.settingValue, if_neg other, unset]

/-- READ_SETTING answers its entry, whatever it reports. -/
theorem exec_readSetting_answers {s t : State} {p : Port} {tag id : Byte} {k : Slot}
    (a : s.Admits p tag (.readSetting id) k) (e : exec (.readSetting p tag id) s = .next t) :
    (t.entry p k).state = .answered := by
  rw [exec_admitted (q := .readSetting id) rfl a] at e
  cases e
  exact State.checked_induction (P := fun u => (u.entry p k).state = .answered)
    (fun _ => State.admitted_answer_state ..) (fun _ => State.admitted_answer_state ..)

/-! ### DEVICE_INFO (R133) and SET_ATTENTION (R164) -/

theorem lt_two_of_devOf {b : Byte} {d : Dev} (h : devOf b = some d) : b.toNat < 2 := by
  unfold devOf at h
  split at h
  · omega
  · omega
  · cases h

theorem devOf_none {b : Byte} (h : 2 ≤ b.toNat) : devOf b = none := by
  rw [Option.eq_none_iff_forall_ne_some]
  intro d hd
  exact absurd (lt_two_of_devOf hd) (by omega)

theorem deviceNamed_some {b : Byte} {d : Dev} (h : devOf b = some d) : deviceNamed b = .ok d := by
  unfold deviceNamed
  rw [h]

theorem deviceNamed_none {b : Byte} (h : devOf b = none) : deviceNamed b = .error .malformed := by
  unfold deviceNamed
  rw [h]

/-- The answer of DEVICE_INFO for a device that no probe has read (R133). -/
theorem deviceInfoBytes_unprobed {q : Sequencer} (h : q.probedId = none) (p : Profile) :
    deviceInfoBytes q p = [q.state.code, reasonCode q.absentReason] ++ [0#8, 0#8, 0#8, 0#8] ++ p.record.wire := by
  unfold deviceInfoBytes
  rw [h]
  rfl

theorem deviceInfoBytes_probed {q : Sequencer} {i : DeviceId} (h : q.probedId = some i) (p : Profile) :
    deviceInfoBytes q p = [q.state.code, reasonCode q.absentReason] ++ [1#8, i.b0, i.b1, i.b2] ++ p.record.wire := by
  unfold deviceInfoBytes
  rw [h]
  rfl

theorem maskCarried_some {b : Byte} (h : b.toNat < 8) :
    maskCarried b = .ok ⟨b.getLsbD 0, b.getLsbD 1, b.getLsbD 2⟩ := by
  unfold maskCarried maskOf
  rw [if_pos h]

theorem maskCarried_none {b : Byte} (h : 8 ≤ b.toNat) : maskCarried b = .error .malformed := by
  unfold maskCarried maskOf
  rw [if_neg (Nat.not_lt.mpr h)]

/-- Settles O34: each request by what its check reads of the byte it carries; an answer of READ_SETTING stands in an
ANSWERED entry, which no CONFIGURE reaches. -/
theorem reportsAndSetAttention : Obligations.ReportsAndSetAttention := by
  refine ⟨fun s p tag id k a => ⟨fun v hv => ?_, ?_, fun large => ?_, fun t u q tag' id' v' read configure => ?_⟩,
    fun s p tag b k => ⟨fun d a hd => ?_, fun a large => ?_, fun a small => ?_, fun a large => ?_⟩⟩
  · exact exec_carried (q := .readSetting id) rfl a (State.settingValue_setting hv) rfl rfl
  · intro selection
    exact exec_carried (q := .readSetting id) rfl a (State.settingValue_admin selection) rfl rfl
  · exact exec_refused (q := .readSetting id) rfl a (State.settingValue_none large) rfl
  · exact exec_configure_entry configure (by rw [exec_readSetting_answers a read]; decide)
  · refine exec_carried (q := .deviceInfo b) rfl a (deviceNamed_some hd) rfl ?_
    simp only [State.seq_admitted, State.profile_admitted]
    cases probed : (s.seq d).probedId with
    | none => rw [deviceInfoBytes_unprobed probed]
    | some i => rw [deviceInfoBytes_probed probed]
  · exact exec_refused (q := .deviceInfo b) rfl a (deviceNamed_none (devOf_none large)) rfl
  · exact exec_carried (q := .setAttention b) rfl a (maskCarried_some small) rfl rfl
  · exact exec_refused (q := .setAttention b) rfl a (maskCarried_none large) rfl

end Sys2Proof.Machine
end

section
/-! SET_PROFILE and RECOVER (R123, R124, R127, R128): O31. -/

namespace Sys2Proof.Machine

/-! ### SET_PROFILE -/

theorem holdsDevice_iff {r : Region} {d : Dev} : r.holdsDevice d = true ↔ r.device = some d ∧
    (r.state = .leased ∨ r.state = .releasing ∨ r.state = .closing ∨ r.state = .retiring) := by
  simp [Region.holdsDevice, or_assoc]

theorem exceeds_iff {r : Region} {d : Dev} {sectors : Nat} : r.exceeds d sectors = true ↔
    r.state ≠ .free ∧ r.device = some d ∧ sectors < r.baseSector + r.sectorCount := by
  simp [Region.exceeds, and_assoc]

/-- A SET_PROFILE of the administrator whose device or record lies outside its encoding (R123). -/
theorem State.profileCheck_malformed {s : State} {p : Port} {device : Byte} {record : ProfileRecord}
    (admin : s.admin = some p) (h : devOf device = none ∨ parseProfile record = none) :
    s.profileCheck p device record = .error .malformed := by
  have isAdmin : s.notAdmin p = false := by simp [State.notAdmin, admin]
  unfold State.profileCheck
  rw [isAdmin]
  obtain h | h := h
  · rw [h]
    rfl
  · rw [h]
    cases devOf device <;> rfl

/-- The checks of a SET_PROFILE of the administrator whose device and profile are read (R123). -/
theorem State.profileCheck_read {s : State} {p : Port} {device : Byte} {record : ProfileRecord} {d : Dev} {f : Profile}
    (admin : s.admin = some p) (hd : devOf device = some d) (hf : parseProfile record = some f) :
    s.profileCheck p device record =
      if (s.seq d).state ≠ .idle ∧ (s.seq d).state ≠ .faulted ∧ (s.seq d).state ≠ .absent then .error .busy
      else if allRegions.any (fun n => (s.region n).holdsDevice d) then .error .busy
      else if allRegions.any (fun n => (s.region n).exceeds d f.sectors) then .error .badRange
      else .ok (d, f) := by
  have isAdmin : s.notAdmin p = false := by simp [State.notAdmin, admin]
  unfold State.profileCheck
  rw [isAdmin, hd, hf]
  rfl

/-- An accepted SET_PROFILE requests the ID read with the new profile (R124). -/
theorem State.profileSet_eq (s : State) (p : Port) (k : Slot) (d : Dev) (f : Profile) :
    s.profileSet p k d f = ((s.setProfile d f).setSeq d { s.seq d with
      state := .probing, absentReason := none, waitingRequest := some ⟨p, k⟩ }).place d (.idRead f.idOp) := by
  unfold State.profileSet State.requestIdRead
  dsimp only
  rw [State.profile_setSeq, State.profile_setProfile_same, State.seq_setProfile]

/-! ### The reset sequence (R128) -/

/-- The next reset opcode is requested. -/
theorem State.nextReset_opcode {s : State} {d : Dev} {q : Sequencer} {op : Byte}
    (h : (s.profile d).resetOps[q.resetsSent]? = some op) : (s.setSeq d q).nextReset d =
      (s.setSeq d { q with recoveryPhase := some .reset }).place d (opcodeOnly .reset op) := by
  simp only [State.nextReset, State.seq_setSeq_same, State.profile_setSeq, h, State.setSeq_setSeq]

/-- After the last reset opcode the recovery delay starts. -/
theorem State.nextReset_delay {s : State} {d : Dev} {q : Sequencer}
    (h : (s.profile d).resetOps[q.resetsSent]? = none) : (s.setSeq d q).nextReset d =
      s.setSeq d { q with recoveryPhase := some .delay, recoveryTimer := some (s.profile d).recoveryDelay } := by
  simp only [State.nextReset, State.seq_setSeq_same, State.profile_setSeq, h, State.setSeq_setSeq]

/-! ### RECOVER -/

theorem State.recoverCheck_malformed {s : State} {p : Port} {device : Byte} (admin : s.admin = some p)
    (h : devOf device = none) : s.recoverCheck p device = .error .malformed := by
  simp [State.recoverCheck, State.notAdmin, admin, h]

theorem State.recoverCheck_ok {s : State} {p : Port} {device : Byte} {d : Dev} (admin : s.admin = some p)
    (hd : devOf device = some d) (hs : (s.seq d).state = .faulted ∨ (s.seq d).state = .idle) :
    s.recoverCheck p device = .ok d := by
  have ready : ¬ ((s.seq d).state ≠ .faulted ∧ (s.seq d).state ≠ .idle) := fun ⟨h, h'⟩ => hs.elim h h'
  simp only [State.recoverCheck, State.notAdmin, admin, hd, if_neg ready]
  simp

theorem State.recoverCheck_busy {s : State} {p : Port} {device : Byte} {d : Dev} (admin : s.admin = some p)
    (hd : devOf device = some d) (hf : (s.seq d).state ≠ .faulted) (hi : (s.seq d).state ≠ .idle) :
    s.recoverCheck p device = .error .busy := by
  simp [State.recoverCheck, State.notAdmin, admin, hd, hf, hi]

/-- Settles O31: SET_PROFILE by the tests of its check in their order, RECOVER by the state of the device and by its reset
sequence. -/
theorem setProfileAndRecoverStart : Obligations.SetProfileAndRecoverStart := by
  refine ⟨fun s p tag device record k d f a admin hd hf hs free fits => ?accepted,
    fun s p tag device record k answered a admin hr => ⟨fun bad => ?malformed, fun d f hd hf => ?refused⟩,
    fun s p tag device k a admin hd => ?unnamed,
    fun s p tag device k d a admin hd => ⟨fun op rest hs ops => ?first, fun hs ops => ?delay, fun hf hi => ?busy⟩⟩
  case accepted =>
    have ready : ¬ ((s.seq d).state ≠ .idle ∧ (s.seq d).state ≠ .faulted ∧ (s.seq d).state ≠ .absent) :=
      fun ⟨hi, hf, ha⟩ => hs.elim hi fun hs => hs.elim hf ha
    have unheld : allRegions.any (fun n => (s.region n).holdsDevice d) = false := by
      rw [Bool.eq_false_iff, Ne, any_allRegions]
      rintro ⟨n, h⟩
      obtain ⟨hn, held⟩ := holdsDevice_iff.mp h
      obtain hn | hn := free n hn <;> rw [hn] at held <;> simp at held
    have inside : allRegions.any (fun n => (s.region n).exceeds d f.sectors) = false := by
      rw [Bool.eq_false_iff, Ne, any_allRegions]
      rintro ⟨n, h⟩
      obtain ⟨hn, hd, beyond⟩ := exceeds_iff.mp h
      exact Nat.not_le.mpr beyond (fits n hd hn)
    have check : (s.admitted p tag (.setProfile device record) k).profileCheck p device record = .ok (d, f) := by
      rw [State.profileCheck_read (s := s.admitted p tag (.setProfile device record) k) admin hd hf]
      simp only [State.seq_admitted, State.region_admitted, ready, unheld, inside, if_false, Bool.false_eq_true]
    exact exec_carried (q := .setProfile device record) rfl a check rfl (State.profileSet_eq ..)
  case malformed =>
    rw [hr]
    exact exec_refused (q := .setProfile device record) rfl a (State.profileCheck_malformed admin bad) rfl
  case refused =>
    subst hr
    have refused : ∀ {x : Result},
        (s.admitted p tag (.setProfile device record) k).profileCheck p device record = .error x →
        exec (.setProfile p tag device record) s =
          .next ((s.admitted p tag (.setProfile device record) k).answer p k x) := fun check =>
      exec_refused (q := .setProfile device record) rfl a check rfl
    have check := State.profileCheck_read (s := s.admitted p tag (.setProfile device record) k) admin hd hf
    simp only [State.seq_admitted, State.region_admitted, any_allRegions, holdsDevice_iff, exceeds_iff,
      Profile.sectors] at check
    split_ifs with state held beyond
    · exact refused (by rw [check, if_pos state])
    · exact refused (by rw [check, if_neg state, if_pos held])
    · exact refused (by rw [check, if_neg state, if_neg held, if_pos beyond])
    · rfl
  case unnamed => exact exec_refused (q := .recover device) rfl a (State.recoverCheck_malformed admin hd) rfl
  case first =>
    exact exec_carried (q := .recover device) rfl a (State.recoverCheck_ok admin hd hs) rfl
      (State.nextReset_opcode (by rw [State.profile_admitted, ops]; rfl))
  case delay =>
    exact exec_carried (q := .recover device) rfl a (State.recoverCheck_ok admin hd hs) rfl
      (State.nextReset_delay (by rw [State.profile_admitted, ops]; rfl))
  case busy => exact exec_refused (q := .recover device) rfl a (State.recoverCheck_busy admin hd hf hi) rfl

end Sys2Proof.Machine
end

section
/-! Recoveries and probes (R120, R122, R124, R128 to R130): O51 and O50. -/

namespace Sys2Proof.Machine

/-! ### The waiting request of a device (R78, R143) -/

theorem State.answerWaiting_none {s : State} {d : Dev} (h : (s.seq d).waitingRequest = none) (x : Result)
    (v : Values) : s.answerWaiting d x v = s := by
  unfold State.answerWaiting
  rw [h]

theorem State.answerWaiting_some {s : State} {d : Dev} {r : EntryRef} (h : (s.seq d).waitingRequest = some r)
    (x : Result) (v : Values) : s.answerWaiting d x v =
      (s.setSeq d { s.seq d with waitingRequest := none }).answer r.port r.slot x v := by
  unfold State.answerWaiting
  rw [h]

/-- The answer to a waiting request reaches the Exchanges and the sequencers alone. -/
theorem State.answerWaiting_frame (s : State) (d : Dev) (x : Result) (v : Values) : s.answerWaiting d x v =
    { s with exchs := (s.answerWaiting d x v).exchs, seqs := (s.answerWaiting d x v).seqs } := by
  cases h : (s.seq d).waitingRequest with
  | none => rw [State.answerWaiting_none h]
  | some r => rw [State.answerWaiting_some h]; rfl

theorem State.regions_answerWaiting (s : State) (d : Dev) (x : Result) (v : Values) :
    (s.answerWaiting d x v).regions = s.regions := by
  rw [State.answerWaiting_frame]

theorem State.seq_answerWaiting (s : State) (d : Dev) (x : Result) (v : Values) :
    (s.answerWaiting d x v).seq d = { s.seq d with waitingRequest := none } := by
  cases h : (s.seq d).waitingRequest with
  | none => rw [State.answerWaiting_none h, ← h]
  | some r => rw [State.answerWaiting_some h]; exact State.seq_setSeq_same s d _

theorem State.entry_answerWaiting (s : State) (d : Dev) (x : Result) (v : Values) (q : Port) (j : Slot) :
    (s.answerWaiting d x v).entry q j =
      if (s.seq d).waitingRequest = some ⟨q, j⟩ then (s.entry q j).answered x v none else s.entry q j := by
  cases h : (s.seq d).waitingRequest with
  | none => rw [State.answerWaiting_none h, if_neg nofun]
  | some r =>
    obtain ⟨p, k⟩ := r
    rw [State.answerWaiting_some h, State.entry_answer, State.entry_setSeq]
    simp only [Option.some.injEq, EntryRef.mk.injEq, eq_comm]

theorem State.order_answerWaiting (s : State) (d : Dev) (x : Result) (v : Values) (q : Port) :
    ((s.answerWaiting d x v).exch q).order = (s.exch q).order := by
  cases h : (s.seq d).waitingRequest with
  | none => rw [State.answerWaiting_none h]
  | some r => rw [State.answerWaiting_some h, State.order_answer]; rfl

/-- No region record names the waiting SET_PROFILE or RECOVER of a device (R143). -/
theorem State.WaitsReferred.unnamed_of_device {s : State} (w : s.WaitsReferred) {d : Dev} {q : Port} {j : Slot}
    (h : (s.seq d).waitingRequest = some ⟨q, j⟩) : s.Unnamed q j := by
  have kind : (s.entry q j).kind = some 0x34#8 ∨ (s.entry q j).kind = some 0x35#8 :=
    (w.devices d _ h).1.imp And.right And.right
  rintro n (⟨c, hc, rfl, rfl⟩ | ⟨hq, hj⟩ | hr)
  · rw [(w.claims n c hc).1.2] at kind
    exact absurd kind (by decide)
  · obtain ⟨p, hp, waits, -⟩ := w.releases n j hj
    cases hq.symm.trans hp
    rw [waits.2] at kind
    exact absurd kind (by decide)
  · rw [(w.retires n _ hr).1.2] at kind
    exact absurd kind (by decide)

/-! ### The QUEUED entries of a device (R76, R122, R129) -/

/-- Of the entries that no region record names, those QUEUED on the device end, and the others stay. -/
theorem State.entry_endQueued {s : State} {q : Port} {j : Slot} (named : s.Unnamed q j) (d : Dev) (x : Result) :
    (s.endQueued d x).entry q j =
      if j ∈ (s.exch q).order ∧ (s.entry q j).device = some d ∧ (s.entry q j).state = .queued then
        (s.entry q j).ended x
      else s.entry q j := by
  have own : ∀ y ∈ s.lineEntries d (fun e => e.state == .queued) (fun _ _ => x), y.1 = ⟨q, j⟩ → y.2 = x := by
    rintro ⟨r, z⟩ hy rfl
    exact (State.mem_lineEntries.mp hy).2
  have ends : (⟨q, j⟩, x) ∈ s.lineEntries d (fun e => e.state == .queued) (fun _ _ => x) ↔
      j ∈ (s.exch q).order ∧ (s.entry q j).device = some d ∧ (s.entry q j).state = .queued := by
    rw [State.mem_lineEntries, beq_iff_eq]
    exact ⟨fun ⟨⟨ho, _, hd, hq⟩, _⟩ => ⟨ho, hd, hq⟩, fun ⟨ho, hd, hq⟩ => ⟨⟨ho, by rw [hq]; rfl, hd, hq⟩, rfl⟩⟩
  rw [State.endQueued, State.entry_endEntries named own]
  simp only [ends]

/-! ### The end of a probe (R120, R122, R124, R130) -/

/-- What a probe finds, by the ID that it reads (R120). -/
theorem Profile.probe_eq (p : Profile) (id : DeviceId) : p.probe id =
    if id = ⟨0x00#8, 0x00#8, 0x00#8⟩ ∨ id = ⟨0xFF#8, 0xFF#8, 0xFF#8⟩ then some .noResponse
    else if p.expectedId ≠ none ∧ p.expectedId ≠ some id then some .idMismatch
    else none := by
  unfold Profile.probe DeviceId.isNoResponse
  simp only [Bool.or_eq_true, beq_iff_eq]
  cases p.expectedId with
  | none => simp
  | some x => by_cases h : x = id <;> simp [h]

theorem State.probeEnd_idle {s : State} {d : Dev} {id : DeviceId} (h : (s.profile d).probe id = none) :
    s.probeEnd d id = ((s.setSeq d { s.seq d with
      state := .idle, absentReason := none, probedId := some id, recoveryPhase := none,
      resetsSent := 0 }).answerWaiting d .done (.probed id)).selectIdle d := by
  unfold State.probeEnd
  rw [h]

theorem State.probeEnd_absent {s : State} {d : Dev} {id : DeviceId} {x : AbsentReason}
    (h : (s.profile d).probe id = some x) :
    s.probeEnd d id = ((s.setSeq d { s.seq d with
      state := .absent, absentReason := some x, probedId := some id, recoveryPhase := none,
      resetsSent := 0 }).answerWaiting d .deviceAbsent (.absent id x)).endQueued d .deviceAbsent := by
  unfold State.probeEnd
  rw [h]

/-- An end command with bytes in whose event is none of the current operation's (R101). -/
theorem State.Ends.next_bytes {s : State} {d : Dev} {use : BusUse} {bytes : List Byte}
    (h : s.Ends d use bytes.length) (effect : List Byte → State → State) :
    whenDue (s.endDue d use bytes.length) (fun s => s.endReading bytes effect) s =
      .next (effect bytes s.releaseBus).grantNext := by
  rw [whenDue_true h.due, h.endReading]

theorem exec_idReadEnd {s : State} {d : Dev} (h : s.Ends d .idRead 3) (a b c : Byte) :
    exec (.idReadEnd d a b c) s = .next (s.releaseBus.probeEnd d ⟨a, b, c⟩).grantNext :=
  State.Ends.next_bytes (bytes := [a, b, c]) h fun id s =>
    s.probeEnd d ⟨id.getD 0 0#8, id.getD 1 0#8, id.getD 2 0#8⟩

/-- Settles O51: the end of the probe by what it finds, and the waiting request by whether there is one. -/
theorem probeDecidesIdleOrAbsent : Obligations.ProbeDecidesIdleOrAbsent := by
  rintro s d a b c id reason h rfl hr
  rw [← Profile.probe_eq] at hr
  refine ⟨fun found => ?_, fun x found => ?_, fun u x v waits => State.answerWaiting_none waits x v,
    fun u x v r waits => State.answerWaiting_some waits x v⟩
  · rw [exec_idReadEnd h, State.probeEnd_idle (s := s.releaseBus) (hr.symm.trans found)]
    rfl
  · rw [exec_idReadEnd h, State.probeEnd_absent (s := s.releaseBus) (hr.symm.trans found)]
    rfl

/-! ### The events of a recovery (R128, R129) -/

theorem exec_resetTransactionEnd {s : State} {d : Dev} (h : s.Ends d .reset 0) :
    exec (.resetTransactionEnd d) s = .next ((s.releaseBus.setSeq d { s.seq d with
      resetsSent := (s.seq d).resetsSent + 1 }).nextReset d).grantNext :=
  h.next fun s => (s.setSeq d { s.seq d with resetsSent := (s.seq d).resetsSent + 1 }).nextReset d

theorem State.recoveryTimedOut_of {s : State} {d : Dev} {phase : RecoveryPhase} (hr : s.resetn = true)
    (hs : (s.seq d).state = .recovering) (hp : (s.seq d).recoveryPhase = some phase)
    (ht : (s.seq d).recoveryTimer = some 0) : s.recoveryTimedOut d phase = true := by
  simp [State.recoveryTimedOut, hr, hs, hp, ht]

theorem exec_recoveryPollTurn {s : State} {d : Dev} (hr : s.resetn = true) (hs : (s.seq d).state = .recovering)
    (hp : (s.seq d).recoveryPhase = some .poll) (ht : (s.seq d).pollTimer = some 0) :
    exec (.recoveryPollTurn d) s = .next ((s.setSeq d { s.seq d with pollTimer := none }).place d
      (statusRead .recoveryStatus (s.profile d))) := by
  have due : s.recoveryPollDue d = true := by simp [State.recoveryPollDue, hr, hs, hp, ht]
  exact whenDue_true (effect := fun s => (s.setSeq d { s.seq d with pollTimer := none }).place d
    (statusRead .recoveryStatus (s.profile d))) due

theorem exec_recoveryStatusEnd {s : State} {d : Dev} (h : s.Ends d .recoveryStatus 1) (b : Byte) :
    exec (.recoveryStatusEnd d b) s = .next (s.releaseBus.recoveryStatus d b).grantNext :=
  State.Ends.next_bytes (bytes := [b]) h fun status s => s.recoveryStatus d (status.headD 0#8)

theorem State.recoveryStatus_busy {s : State} {d : Dev} {b : Byte} (h : (s.profile d).busy b = true) :
    s.recoveryStatus d b = s.setSeq d { s.seq d with pollTimer := some (s.seq d).stepPoll } := if_pos h

theorem State.recoveryStatus_ready {s : State} {d : Dev} {b : Byte} (h : (s.profile d).busy b = false) :
    s.recoveryStatus d b = (s.setSeq d { s.seq d with
      recoveryPhase := some .probe, recoveryTimer := none, pollTimer := none }).requestIdRead d :=
  if_neg (Bool.eq_false_iff.mp h)

/-! ### The time-out of a recovery (R129) -/

/-- The state in which a recovery has timed out and the RECOVER is answered, before the QUEUED entries end. -/
def State.recoverAnswered (s : State) (d : Dev) : State := (s.faultBegun d).answerWaiting d .deviceTimeout .none

theorem State.recoveryFailed_eq (s : State) (d : Dev) :
    s.recoveryFailed d = (s.recoverAnswered d).endQueued d .deviceFault := by
  have begun : (s.setSeq d (s.seq d).faulted).abandonBus d = s.faultBegun d := by
    rw [State.abandonBus_eq, State.seq_setSeq_same, State.setSeq_setSeq]
    rfl
  rw [State.recoveryFailed, begun]
  rfl

theorem State.seq_faultBegun (s : State) (d : Dev) :
    (s.faultBegun d).seq d = { (s.seq d).faulted with busRequest := none } := State.seq_setSeq_same s d _

theorem State.recoveryFailed_endWork (s : State) (d : Dev) : (s.recoverAnswered d).EndWork (s.recoveryFailed d) := by
  rw [State.recoveryFailed_eq]
  exact State.endEntries_endWork _ _

/-- The record of a device whose recovery has timed out (R91 item 1, R129). -/
theorem State.seq_recoveryFailed (s : State) (d : Dev) : (s.recoveryFailed d).seq d =
    { (s.seq d).faulted with busRequest := none, waitingRequest := none } := by
  have same : (s.recoveryFailed d).seqs = (s.recoverAnswered d).seqs := by
    rw [show s.recoveryFailed d = _ from s.recoveryFailed_endWork d]
  rw [State.seq, same]
  exact (State.seq_answerWaiting ..).trans (by rw [State.seq_faultBegun])

theorem State.recoveryFailed_frame (s : State) (d : Dev) : s.recoveryFailed d =
    { s with
      exchs := (s.recoveryFailed d).exchs, notices := (s.recoveryFailed d).notices,
      regions := (s.recoveryFailed d).regions, epoch := (s.recoveryFailed d).epoch,
      seqs := (s.recoveryFailed d).seqs, bus := (s.recoveryFailed d).bus } := by
  have ended : s.recoveryFailed d = _ := s.recoveryFailed_endWork d
  have answered : s.recoverAnswered d = _ := State.answerWaiting_frame ..
  rw [ended, answered]
  rfl

/-- An entry that no region record names after the time-out: the RECOVER is answered, and what is QUEUED on the device
ends. -/
theorem State.entry_recoveryFailed {s : State} {q : Port} {j : Slot} (named : s.Unnamed q j) (d : Dev) :
    (s.recoveryFailed d).entry q j =
      if j ∈ (s.exch q).order ∧ ((s.recoverAnswered d).entry q j).device = some d ∧
          ((s.recoverAnswered d).entry q j).state = .queued then
        ((s.recoverAnswered d).entry q j).ended .deviceFault
      else (s.recoverAnswered d).entry q j := by
  have regions : (s.recoverAnswered d).regions = s.regions := State.regions_answerWaiting ..
  have order : ((s.recoverAnswered d).exch q).order = (s.exch q).order := State.order_answerWaiting ..
  have still : (s.recoverAnswered d).Unnamed q j := fun n hn => named n (State.region_of_regions regions n ▸ hn)
  rw [State.recoveryFailed_eq, State.entry_endQueued still, order]

theorem State.entry_recoverAnswered (s : State) (d : Dev) (q : Port) (j : Slot) :
    (s.recoverAnswered d).entry q j = if (s.seq d).waitingRequest = some ⟨q, j⟩
      then (s.entry q j).answered .deviceTimeout .none none else s.entry q j := by
  unfold State.recoverAnswered
  rw [State.entry_answerWaiting, State.seq_faultBegun]
  rfl

/-- Settles O50: the sequence of resets and the polls event by event; at the time-out the record of the device, the RECOVER,
which waits, and the QUEUED entries, which do not. -/
theorem recoveryRunsToItsEnd : Obligations.RecoveryRunsToItsEnd := by
  refine ⟨fun s d => ⟨fun op h more => ?_, fun h last => ?_, fun hr hs hp ht => ?_, fun hr hs hp ht => ?_⟩,
    fun s d => ⟨fun b h busy => ?_, fun b h ready => ?_, fun hr hs hp ht form waits => ?_⟩⟩
  · rw [exec_resetTransactionEnd h, State.nextReset_opcode (s := s.releaseBus)
      (q := { s.seq d with resetsSent := (s.seq d).resetsSent + 1 }) more]
  · rw [exec_resetTransactionEnd h, State.nextReset_delay (s := s.releaseBus)
      (q := { s.seq d with resetsSent := (s.seq d).resetsSent + 1 }) last]
    rfl
  · exact whenDue_true (effect := fun s => s.recoveryPolling d) (State.recoveryTimedOut_of hr hs hp ht)
  · exact exec_recoveryPollTurn hr hs hp ht
  · rw [exec_recoveryStatusEnd h, State.recoveryStatus_busy (s := s.releaseBus) busy]
    rfl
  · rw [exec_recoveryStatusEnd h, State.recoveryStatus_ready (s := s.releaseBus) ready]
    rfl
  · have seq := s.seq_recoveryFailed d
    refine ⟨_, whenDue_true (effect := fun s => s.recoveryFailed d) (State.recoveryTimedOut_of hr hs hp ht),
      ?_, ?_, ?_, ?_, ?_, ?_, fun r hw => ?recover, fun p k hd hq => ?queued, s.recoveryFailed_frame d⟩
    case recover =>
      have waiting : (s.entry r.port r.slot).state = .waiting :=
        (waits.devices d r hw).1.elim And.left And.left
      have answered := s.entry_recoverAnswered d r.port r.slot
      rw [if_pos hw, Entry.answered_of_open (by rw [waiting]; rfl)] at answered
      rw [State.entry_recoveryFailed (waits.unnamed_of_device hw), answered, if_neg fun h => nomatch h.2.2]
      exact ⟨rfl, rfl⟩
    case queued =>
      have other : (s.seq d).waitingRequest ≠ some ⟨p, k⟩ := fun hw =>
        absurd ((waits.devices d _ hw).1.elim And.left And.left) (by rw [hq]; decide)
      have stands : k ∈ (s.exch p).order := State.mem_order_of_form (form p) (by rw [hq]; decide)
      have entry := State.entry_recoveryFailed (waits.unnamed (q := p) (j := k) (by rw [hq]; decide)) d
      rw [State.entry_recoverAnswered, if_neg other, if_pos ⟨stands, hd, hq⟩] at entry
      rw [entry]
      exact Entry.ended_of_open (.inl hq) _
    all_goals simp only [seq, Sequencer.faulted]

end Sys2Proof.Machine
end

section
/-! What the action of a request's kind does to the Exchanges (R137, R142, R144), and what the tests of a checked frame come
to (R138, R139): O12 and O13. -/

namespace Sys2Proof.Machine

/-! ### What a kind's action keeps of the Exchanges -/

/-- What the action of a request's kind keeps, whatever the kind: the waiting commands, of each Exchange what
Exchange.Keeps says, and of each link the item that a TAKE is shifting out (R159). -/
structure State.KeepsExchanges (s t : State) : Prop where
  pending : t.pending = s.pending
  exchs   : ∀ p, (s.exch p).Keeps (t.exch p)
  items   : ∀ p, (t.link p).item = (s.link p).item ∧ (t.link p).phase = (s.link p).phase

theorem State.KeepsExchanges.refl (s : State) : s.KeepsExchanges s :=
  ⟨rfl, fun _ => .refl _, fun _ => ⟨rfl, rfl⟩⟩

theorem State.KeepsExchanges.trans {s t u : State} (h : s.KeepsExchanges t) (g : t.KeepsExchanges u) :
    s.KeepsExchanges u where
  pending := g.pending.trans h.pending
  exchs p := (h.exchs p).trans (g.exchs p)
  items p := ⟨(g.items p).1.trans (h.items p).1, (g.items p).2.trans (h.items p).2⟩

theorem State.link_of_links {s t : State} (h : t.links = s.links) (p : Port) : t.link p = s.link p := by
  unfold State.link; rw [h]

theorem State.Holds.exchanges {s t : State} (h : s.Holds t) : s.KeepsExchanges t :=
  ⟨h.pending, h.exchs, fun p => by rw [State.link_of_links h.links]; exact ⟨rfl, rfl⟩⟩

theorem State.Keeps.exchanges {s t : State} (h : s.Keeps t) : s.KeepsExchanges t := h.holds.exchanges

/-- An update of other records. -/
theorem State.KeepsExchanges.of_same {s t : State} (pending : t.pending = s.pending) (exchs : t.exchs = s.exchs)
    (links : t.links = s.links) : s.KeepsExchanges t :=
  ⟨pending, fun p => by unfold State.exch; rw [exchs]; exact .refl _,
   fun p => by rw [State.link_of_links links]; exact ⟨rfl, rfl⟩⟩

/-- A new attention mask (R164). -/
theorem State.setMask_keepsExchanges (s : State) (p : Port) (m : Mask) :
    s.KeepsExchanges (s.setLink p { s.link p with mask := m }) := by
  refine ⟨rfl, fun _ => .refl _, fun q => ?_⟩
  rw [State.link_setLink]
  split
  · rename_i e; rw [e]; exact ⟨rfl, rfl⟩
  · exact ⟨rfl, rfl⟩

theorem State.answer_keepsExchanges (s : State) (p : Port) (k : Slot) (r : Result) (v : Values)
    (b : Option (List Byte)) : s.KeepsExchanges (s.answer p k r v b) := (s.answer_keeps p k r v b).exchanges

/-- An update of other records, and then an answer: the outcome of most kinds. -/
theorem State.KeepsExchanges.answered {s t : State} {p : Port} {k : Slot} {r : Result} {v : Values}
    {b : Option (List Byte)} (pending : t.pending = s.pending) (exchs : t.exchs = s.exchs)
    (links : t.links = s.links) : s.KeepsExchanges (t.answer p k r v b) :=
  (State.KeepsExchanges.of_same pending exchs links).trans (t.answer_keepsExchanges p k r v b)

theorem State.checked_keepsExchanges {α : Type} (s : State) (p : Port) (k : Slot) (check : Except Result α)
    {act : α → State} (h : ∀ a, s.KeepsExchanges (act a)) : s.KeepsExchanges (s.checked p k check act) :=
  State.checked_induction (fun r => s.answer_keepsExchanges p k r _ _) h

theorem State.claimAccepted_keepsExchanges (s : State) (p : Port) (k : Slot) (n : RegionId) (term wait : Half) :
    s.KeepsExchanges (s.claimAccepted p k n term wait) := by
  unfold State.claimAccepted
  dsimp only
  split
  · exact (s.grant_holds n p k _).exchanges
  · split
    · exact s.answer_keepsExchanges p k _ _ _
    · split
      · exact s.answer_keepsExchanges p k _ _ _
      · exact .of_same rfl rfl rfl

theorem State.released_keepsExchanges (s : State) (p : Port) (k : Slot) (n : RegionId) :
    s.KeepsExchanges (s.released p k n) := by
  unfold State.released
  dsimp only
  split
  · exact (s.leaseEnd_keeps n p _).exchanges
  · exact .of_same rfl rfl rfl

/-- The entry of a flash request that passes its checks goes from WAITING to QUEUED (R53). -/
theorem State.queued_keepsExchanges {s : State} {p : Port} {k : Slot} (h : (s.entry p k).state = .waiting) :
    s.KeepsExchanges (s.queued p k) := by
  have waiting : ((s.exch p).entry k).state = .waiting := h
  refine (s.setExch_keeps p _ (Exchange.put_keeps (s.exch p) k { s.entry p k with state := .queued } ?_ ?_ ?_ ?_
    ⟨rfl, rfl, rfl, rfl, rfl, rfl⟩ ?_ ?_)).exchanges
  all_goals simp [waiting, EntryState.holdsTag]

theorem State.enqueue_keepsExchanges {s : State} {p : Port} {k : Slot} (h : (s.entry p k).state = .waiting) (d : Dev) :
    s.KeepsExchanges (s.enqueue p k d) := by
  have queued := State.queued_keepsExchanges h
  by_cases idle : (s.seq d).state = .idle
  · rw [State.enqueue_idle idle]
    exact queued.trans (State.selectIdle_keeps _ d).exchanges
  · rw [State.enqueue_busy idle]
    exact queued

theorem State.retireAction_keepsExchanges (s : State) (n : RegionId) : s.KeepsExchanges (s.retireAction n) := by
  have answers : s.Keeps (s.inAdmissionOrder fun t => t.retireAnswers n) :=
    s.inAdmissionOrder_keeps _
      (foldl_keeps State.Keeps .refl .trans _ _ (fun t p _ => t.answerSlots_keeps p _ _) s)
  have stops : s.Keeps (s.retireWork n) :=
    answers.trans (foldl_keeps State.Keeps .refl .trans _ _ (fun t p _ => t.stopSlots_keeps p _ _) _)
  rw [State.retireAction_eq]
  exact ((stops.trans (State.postRetired_keeps _ n (s.region n))).holds.trans (State.setRegion_holds _ n _)).exchanges

theorem State.retire_keepsExchanges (s : State) (p : Port) (k : Slot) (n : RegionId) :
    s.KeepsExchanges (s.retire p k n) := by
  have action := s.retireAction_keepsExchanges n
  unfold State.retire
  dsimp only
  split
  · exact action.trans (.of_same rfl rfl rfl)
  · exact (action.trans (State.freeRegion_keeps _ n).exchanges).trans (State.answer_keepsExchanges _ p k _ _ _)

theorem State.rightsSet_keepsExchanges (s : State) (p : Port) (k : Slot) (n : RegionId) (rr wr : PortSet) :
    s.KeepsExchanges (s.rightsSet p k n rr wr) := by
  have written : s.KeepsExchanges (s.withRights n rr wr) := .of_same rfl rfl rfl
  have pruned := State.inAdmissionOrder_keeps (s.withRights n rr wr) (fun t => t.pruneRights n wr)
    (State.pruneRights_keeps _ n wr)
  exact (written.trans pruned.exchanges).trans (State.answer_keepsExchanges _ p k _ _ _)

theorem State.cancelQueued_keepsExchanges (s : State) (p : Port) (k j : Slot) :
    s.KeepsExchanges (s.cancelQueued p k j) := by
  have answered : s.Keeps ((s.answer p j .cancelled).answer p k .done) :=
    (s.answer_keeps p j _ _ _).trans (State.answer_keeps _ p k _ _ _)
  unfold State.cancelQueued
  dsimp only
  split
  · exact answered.exchanges
  · exact (answered.trans (State.leaveRelease_keeps _ p j _)).exchanges

theorem State.cancelClaim_keepsExchanges (s : State) (p : Port) (k j : Slot) :
    s.KeepsExchanges (s.cancelClaim p k j) := by
  unfold State.cancelClaim
  split
  · exact s.answer_keepsExchanges p k _ _ _
  · exact ((s.dropClaim_keeps _ p _).trans (State.answer_keeps _ p k _ _ _)).exchanges

theorem State.cancelled_keepsExchanges (s : State) (p : Port) (k : Slot) (target : Byte) :
    s.KeepsExchanges (s.cancelled p k target) := by
  cases h : s.cancelTarget p k target with
  | none =>
    unfold State.cancelled
    rw [h]
    exact s.answer_keepsExchanges p k _ _ _
  | some j =>
    rw [State.cancelled_target h]
    split
    · exact s.cancelQueued_keepsExchanges p k j
    · split
      · exact s.cancelClaim_keepsExchanges p k j
      · split
        · exact ((s.requestStop_keeps p j _).trans (State.answer_keeps _ p k _ _ _)).exchanges
        · exact s.answer_keepsExchanges p k _ _ _

/-- Whatever a request's kind does, it does to an Exchange by answers and by places in the line of a device (R137, R142). -/
theorem Request.act_keepsExchanges (q : Request) (p : Port) (k : Slot) {s : State}
    (h : (s.entry p k).state = .waiting) : s.KeepsExchanges (q.act p k s) := by
  cases q with
  | claim r t w => exact s.checked_keepsExchanges p k _ fun n => s.claimAccepted_keepsExchanges p k n t w
  | renew r t => exact s.checked_keepsExchanges p k _ fun n => .answered rfl rfl rfl
  | release r => exact s.checked_keepsExchanges p k _ fun n => s.released_keepsExchanges p k n
  | watch r => exact s.checked_keepsExchanges p k _ fun n => .answered rfl rfl rfl
  | unwatch r => exact s.checked_keepsExchanges p k _ fun n => .answered rfl rfl rfl
  | findNumber r => exact s.checked_keepsExchanges p k _ fun n => s.answer_keepsExchanges p k _ _ _
  | findAddress d a => exact s.checked_keepsExchanges p k _ fun n => s.answer_keepsExchanges p k _ _ _
  | findLabel l => exact s.checked_keepsExchanges p k _ fun n => s.answer_keepsExchanges p k _ _ _
  | read r o n e => exact s.checked_keepsExchanges p k _ fun d => State.enqueue_keepsExchanges h d
  | program r o f e b => exact s.checked_keepsExchanges p k _ fun d => State.enqueue_keepsExchanges h d
  | erase r f n e => exact s.checked_keepsExchanges p k _ fun d => State.enqueue_keepsExchanges h d
  | define d b n l rr wr m => exact s.checked_keepsExchanges p k _ fun x => .answered rfl rfl rfl
  | retire r => exact s.checked_keepsExchanges p k _ fun n => s.retire_keepsExchanges p k n
  | setRights r rr wr =>
    exact s.checked_keepsExchanges p k _ fun x => s.rightsSet_keepsExchanges p k x.1 x.2.1 x.2.2
  | setProfile d f =>
    refine s.checked_keepsExchanges p k _ fun x => ?_
    have set : s.KeepsExchanges (s.setProfile x.1 x.2) := .of_same rfl rfl rfl
    exact (set.trans (State.setSeq_keeps _ x.1 _).exchanges).trans (State.place_keeps _ x.1 _).exchanges
  | recover d =>
    exact s.checked_keepsExchanges p k _ fun d => ((s.setSeq_keeps d _).trans (State.nextReset_keeps _ d)).exchanges
  | configure i v => exact s.checked_keepsExchanges p k _ fun x => .answered rfl rfl rfl
  | cancel x => exact s.cancelled_keepsExchanges p k x
  | deviceInfo d => exact s.checked_keepsExchanges p k _ fun x => s.answer_keepsExchanges p k _ _ _
  | readSetting i => exact s.checked_keepsExchanges p k _ fun x => s.answer_keepsExchanges p k _ _ _
  | setAttention m =>
    exact s.checked_keepsExchanges p k _ fun x =>
      (s.setMask_keepsExchanges p x).trans (State.answer_keepsExchanges _ p k _ _ _)
  | unread kind params => exact .refl s

/-- An entry that waited has its request and its number after the action of its kind, and is not VACANT (R139). -/
theorem State.KeepsExchanges.waiting {s t : State} (h : s.KeepsExchanges t) {p : Port} {k : Slot}
    (hw : (s.entry p k).state = .waiting) :
    (t.entry p k).state ≠ .vacant ∧ (s.entry p k).SameRequest (t.entry p k) := by
  have only : ∀ x, (s.entry p k).state = x → x = .waiting := fun x hx => hx.symm.trans hw
  obtain ⟨-, vacant, same⟩ := (h.exchs p).stays k fun hd => nomatch only _ hd
  exact ⟨fun hv => (nomatch only _ (vacant hv)), same⟩

/-! ### The tests on a checked frame (R138) -/

/-- The outcome of tests 1 and 2 (R138, R162). -/
theorem State.admitFrame_clash {s : State} {p : Port} {tag : Byte} (h : tag = 0#8 ∨ (s.exch p).tagHeld tag = true)
    (kind : Byte) (device : Option Dev) (region : Option RegionId) (q : Option Request) (payload : List Byte)
    (act : Slot → State → State) : s.admitFrame p tag kind device region q payload act = s.flagTagClash p := by
  unfold State.admitFrame
  by_cases h0 : tag = 0#8
  · rw [if_pos h0]
  · rw [if_neg h0, if_pos (h.resolve_left h0)]

/-- The outcome of test 3 (R138, R162). -/
theorem State.admitFrame_full {s : State} {p : Port} {tag : Byte} (h0 : tag ≠ 0#8)
    (free : (s.exch p).tagHeld tag = false) (full : (s.exch p).vacantSlot = none) (kind : Byte) (device : Option Dev)
    (region : Option RegionId) (q : Option Request) (payload : List Byte) (act : Slot → State → State) :
    s.admitFrame p tag kind device region q payload act = s.flagOverrun p := by
  unfold State.admitFrame
  rw [if_neg h0, free, full]
  rfl

/-- A frame that passes tests 1 to 3 takes the lowest VACANT slot (R138, R139). -/
theorem State.admitFrame_taken {s : State} {p : Port} {tag : Byte} {k : Slot} (h0 : tag ≠ 0#8)
    (free : (s.exch p).tagHeld tag = false) (vacant : (s.exch p).vacantSlot = some k) (kind : Byte)
    (device : Option Dev) (region : Option RegionId) (q : Option Request) (payload : List Byte)
    (act : Slot → State → State) :
    s.admitFrame p tag kind device region q payload act =
      act k (s.setExch p ((s.exch p).take k tag kind device region q payload)) := by
  unfold State.admitFrame
  rw [if_neg h0, free, vacant]
  rfl

/-- A frame of an unknown kind or length goes to tests 1 to 3 (R138, R141). -/
theorem exec_unknownKind {s : State} {p : Port} {kind : Byte} {params : List Byte} (resetn : s.resetn = true)
    (awaits : (s.link p).awaitsFrame = true) (short : params.length ≤ 288)
    (unfit : acceptsFrame kind params.length = false) (tag : Byte) :
    exec (.unknownKind p tag kind params) s =
      .next ((s.setLink p ((s.link p).afterFrame tag kind params)).admitFrame p tag kind
        (s.deviceField (.unread kind params)) (regionField (.unread kind params)) (some (.unread kind params)) []
        fun k s => s.answer p k .malformed) := by
  have due : (s.frameDue p && decide (params.length ≤ Config.maxDeclared) && !acceptsFrame kind params.length) =
      true := by
    rw [(frameDue_iff s p).mpr ⟨resetn, awaits⟩, unfit]
    rw [Bool.true_and, Bool.not_false, Bool.and_true]
    exact decide_eq_true short
  rw [show exec (.unknownKind p tag kind params) s = execUnknownKind p tag kind params s from rfl]
  unfold execUnknownKind
  rw [whenDue_true due, receiveFrame_frameGood s p awaits tag kind params short]
  rfl

/-- The region and device that a frame which fails test 4 names by its first parameter byte (log 25). -/
theorem unread_fields (s : State) (kind b : Byte) (rest : List Byte) :
    ((kind = 0x21#8 ∨ kind = 0x22#8 ∨ kind = 0x23#8) → regionField (.unread kind (b :: rest)) = regionOf b ∧
      s.deviceField (.unread kind (b :: rest)) = (regionOf b).bind fun n => (s.region n).device) ∧
    ((kind = 0x34#8 ∨ kind = 0x35#8) → regionField (.unread kind (b :: rest)) = none ∧
      s.deviceField (.unread kind (b :: rest)) = devOf b) ∧
    ((kind = 0x11#8 ∨ kind = 0x12#8 ∨ kind = 0x13#8 ∨ kind = 0x14#8 ∨ kind = 0x15#8 ∨ kind = 0x16#8 ∨ kind = 0x32#8 ∨
        kind = 0x33#8) → regionField (.unread kind (b :: rest)) = regionOf b ∧
      s.deviceField (.unread kind (b :: rest)) = none) := by
  refine ⟨?_, ?_, ?_⟩
  · rintro (rfl | rfl | rfl) <;> exact ⟨rfl, rfl⟩
  · rintro (rfl | rfl) <;> exact ⟨rfl, rfl⟩
  · rintro (rfl | rfl | rfl | rfl | rfl | rfl | rfl | rfl) <;> exact ⟨rfl, rfl⟩

/-- Without a first parameter byte such a frame names neither (log 25). -/
theorem unread_fields_nil (s : State) (kind : Byte) :
    regionField (.unread kind []) = none ∧ s.deviceField (.unread kind []) = none := by
  constructor
  · exact ite_self _
  · simp only [State.deviceField, List.head?_nil, Option.bind_none, ite_self]

/-- Settles O12: each test by its outcome; an admitted request by what the action of its kind keeps of its entry. -/
theorem frameTestsDecideAdmission : Obligations.FrameTestsDecideAdmission := by
  refine ⟨fun s c p tag q hq receives => ?_, fun s p tag kind params resetn awaits short unfit => ?_,
    fun s kind b rest => ?_⟩
  · have run : exec c s = .next ((s.received p tag q).admitFrame p tag q.code (s.deviceField q) (regionField q)
        (some q) (payloadOf q) (q.act p)) := by rw [exec_of_requestOf hq, request_received receives]
    have link : (s.received p tag q).link p = (s.link p).afterFrame tag q.code q.wire := State.link_setLink_same ..
    refine ⟨fun clash => ?_, fun h0 free full => ?_, fun k a => ?_⟩
    · rw [run, State.admitFrame_clash (s := s.received p tag q) clash, State.flagTagClash, link]
      rfl
    · rw [run, State.admitFrame_full (s := s.received p tag q) h0 free full, State.flagOverrun, link]
      rfl
    · have own := s.entry_admitted_same p tag q k
      have kept := Request.act_keepsExchanges q p k (s := s.admitted p tag q k) (by rw [own])
      obtain ⟨stands, same⟩ := kept.waiting (p := p) (k := k) (by rw [own])
      refine ⟨_, exec_admitted hq a, ?_, stands, ?_, ?_, ?_, ?_⟩
      · rw [(kept.exchs p).counter, State.exch_admitted]
        rfl
      · rw [same.tag, own]
      · rw [same.kind, own]
      · rw [same.number, own]
      · rw [same.request, own]
  · have run := exec_unknownKind resetn awaits short unfit tag
    obtain ⟨u, hu⟩ : ∃ u, u = s.setLink p ((s.link p).afterFrame tag kind params) := ⟨_, rfl⟩
    have link : u.link p = (s.link p).afterFrame tag kind params := by rw [hu]; exact State.link_setLink_same ..
    have exch : u.exch p = s.exch p := by rw [hu]; rfl
    have relink : ∀ l, u.setLink p l = s.setLink p l := fun l => by rw [hu, State.setLink_setLink]
    rw [← hu] at run
    rw [run, ← exch, ← hu]
    refine ⟨fun clash => ?_, fun h0 free full => ?_, fun k h0 free vacant => ?_⟩
    · rw [State.admitFrame_clash clash, State.flagTagClash, relink, link]
      rfl
    · rw [State.admitFrame_full h0 free full, State.flagOverrun, relink, link]
      rfl
    · rw [State.admitFrame_taken h0 free vacant]
  · obtain ⟨flash, device, region⟩ := unread_fields s kind b rest
    exact ⟨flash, device, region, unread_fields_nil s kind⟩

/-! ### Taking and answering an entry (R139, R144) -/

/-- The slot that a frame takes is the lowest VACANT one (R139). -/
theorem Exchange.vacantSlot_least {x : Exchange} {k j : Slot} (h : x.vacantSlot = some k)
    (hj : (x.entry j).state = .vacant) : k.val ≤ j.val := by
  obtain ⟨-, before, after, split, skipped⟩ := List.find?_eq_some_iff_append.mp h
  have sorted : (before ++ k :: after).Pairwise (· < ·) := split ▸ List.pairwise_lt_finRange Config.slotCount
  have mem : j ∈ before ++ k :: after := split ▸ mem_allSlots j
  rcases List.mem_append.mp mem with hb | ha
  · have := skipped j hb
    simp [hj] at this
  · rcases List.mem_cons.mp ha with rfl | ha
    · exact le_rfl
    · exact le_of_lt (List.rel_of_pairwise_cons (List.pairwise_append.mp sorted).2.1 ha)

theorem Exchange.answer_of_open {x : Exchange} {k : Slot} (h : (x.entry k).state.open = true) (r : Result) (v : Values)
    (b : Option (List Byte)) : (x.answer k r v b).answers = x.answers ++ [k] := by
  unfold Exchange.answer
  simp only [h, if_true]

theorem State.answer_of_not_open {s : State} {p : Port} {k : Slot} (h : (s.entry p k).state.open = false) (r : Result)
    (v : Values) (b : Option (List Byte)) : s.answer p k r v b = s := by
  have settled : (s.exch p).answer k r v b = s.exch p := if_neg (by
    rw [show ((s.exch p).entry k).state.open = false from h]
    exact Bool.false_ne_true)
  unfold State.answer
  rw [settled]
  cases p <;> rfl

/-- Settles O13: the entry as it is taken, then the answer by whether the entry can still be answered. -/
theorem takingAndAnsweringAnEntry : Obligations.TakingAndAnsweringAnEntry := by
  refine ⟨fun s p tag q k a => ?_, fun s p k r v b => ⟨fun h => ?_, fun h => ?_, fun q j hj => ?_⟩⟩
  · have own := s.entry_admitted_same p tag q k
    have exch := s.exch_admitted p tag q k
    dsimp only
    rw [own, exch]
    refine ⟨a.vacant_entry, fun j hj => Exchange.vacantSlot_least a.vacant hj, rfl, rfl, rfl, rfl, rfl, rfl, rfl, rfl,
      rfl, rfl, rfl, fun j hj => ?_⟩
    rw [State.entry_admitted, if_neg fun h => hj h.2]
  · have isOpen : (s.entry p k).state.open = true := by rcases h with h | h | h <;> rw [h] <;> rfl
    have exch : (s.answer p k r v b).exch p = (s.exch p).answer k r v b := State.exch_setExch_same ..
    refine ⟨?_, ?_⟩
    · rw [exch, Exchange.answer_of_open isOpen]
    · rw [State.entry_answer, if_pos ⟨rfl, rfl⟩, Entry.answered_of_open isOpen]
      simp
  · exact State.answer_of_not_open (by rcases h with h | h | h <;> rw [h] <;> rfl) r v b
  · rw [State.entry_answer, if_neg fun h => hj (Prod.ext h.1 h.2)]

end Sys2Proof.Machine
end

section
/-! The commands of a host link and the Exchange: deliveries and the port reset there (R145, R150, R159 to R167), O14 and
O15, and what one command of a link and one request can come to. -/

namespace Sys2Proof.Machine

/-! ### Deliveries and the second status byte (R145, R153, R160, R161) -/

/-- The second check byte of a TAKE delivers the item in transit, and all bytes of the frame count as completed. -/
theorem exec_takeDelivery {s : State} {p : Port} {item : TakeItem} (h : s.Shifts p .takeOut)
    (hi : (s.link p).item = some item) :
    exec (.takeDelivery p) s = .next ((s.setLink p { s.link p with
      item := none, count := (s.link p).count + (s.link p).shiftOut.length, shiftOut := [] }).delivered p item) := by
  have transit : s.itemInTransit p = some item := by
    unfold State.itemInTransit
    rw [if_pos ((s.shifts_iff p _).mpr h), hi]
  rw [show exec (.takeDelivery p) s = execTakeDelivery p s from rfl]
  unfold execTakeDelivery
  rw [whenDue_true (by rw [transit]; rfl), transit]

theorem State.exch_vacate (s : State) (p : Port) (k : Slot) : (s.vacate p k).exch p = (s.exch p).vacate k :=
  State.exch_setExch_same ..

theorem State.entry_vacate_other (s : State) (p : Port) {k j : Slot} (h : j ≠ k) :
    (s.vacate p k).entry p j = s.entry p j := by
  unfold State.entry
  rw [State.exch_vacate]
  exact (Exchange.entry_put (s.exch p) k j Entry.vacant).trans (if_neg h)

/-- Settles O14: the delivery by its item, and the second byte of a STATUS. -/
theorem deliveryAndStatusTakeEffect : Obligations.DeliveryAndStatusTakeEffect := by
  refine ⟨fun s p l h hl => ⟨fun k hi => ?_, fun r hi => ?_, fun hi => ?_⟩, fun s p b c h hb => ?_⟩
  · refine ⟨(s.setLink p l).vacate p k, ?_, State.entry_vacate_same _ p k, ?_, ?_, ?_, fun j hj => ?_, ?_⟩
    · rw [exec_takeDelivery h hi, ← hl]
      rfl
    · rw [State.exch_vacate]
      rfl
    · rw [State.exch_vacate]
      rfl
    · rw [State.exch_vacate]
      rfl
    · rw [State.entry_vacate_other _ p hj]
      rfl
    · rw [State.exch_vacate]
      rfl
  · rw [exec_takeDelivery h hi, ← hl]
    rfl
  · rw [exec_takeDelivery h hi, ← hl]
    rfl
  · have due : s.statusByteDue p = true := by
      unfold State.statusByteDue
      rw [(s.shifts_iff p _).mpr h, hb]
      rfl
    rw [show exec (.statusFlagsClear p) s = execStatusFlagsClear p s from rfl]
    unfold execStatusFlagsClear
    rw [whenDue_true due, hb]
    rfl

/-! ### The port reset at the link, the Notice Unit and the Exchange (R150, R166, R167) -/

theorem Exchange.regroup_self (x : Exchange) : x.regroup x = x := by simp [Exchange.regroup]

/-- The leases of a port that has no claim end without an answer to the port (R45, R46). -/
theorem State.exch_endLeases {s : State} {p : Port} (h : s.Claimless p) : (s.endLeases p).exch p = s.exch p := by
  have each : ∀ (l : List RegionId) {t : State}, t.Claimless p →
      (l.foldl (fun s n => s.endLease p n) t).exch p = t.exch p := by
    intro l
    induction l with
    | nil => exact fun _ => rfl
    | cons n l ih => exact fun ht => (ih (ht.endLease n)).trans (State.exch_endLease ht n)
  exact each allRegions h

/-- The end of a lease by the reset of its port posts nothing to the port (R37, R45). -/
theorem State.noticeList_endLease (s : State) (p : Port) (n : RegionId) :
    (s.endLease p n).noticeList p = s.noticeList p := by
  unfold State.endLease State.leaseLoss
  dsimp only
  rw [if_pos rfl]
  split
  · split
    · rfl
    · exact s.noticeList_leaseEnd_ex n p none
  · rfl

theorem State.noticeList_endLeases (s : State) (p : Port) : (s.endLeases p).noticeList p = s.noticeList p :=
  foldl_keeps (fun a b : State => b.noticeList p = a.noticeList p) (fun _ => rfl) (fun h g => g.trans h) _ _
    (fun t n _ => t.noticeList_endLease p n) s

/-- The port reset after it has cleared its own records: the leases end (R45). -/
theorem State.portReset_work (s : State) (p : Port) : (s.portCleared p).TableWork (s.portReset p) := by
  rw [State.portReset_eq]
  exact State.regroup_work (State.endLeases_work _ p)

/-- The Exchange of a port after its reset (R150). -/
theorem State.exch_portReset (s : State) (p : Port) : (s.portReset p).exch p = (s.exch p).portReset := by
  have cleared : (s.portCleared p).exch p = (s.exch p).portReset := State.exch_setExch_same _ p _
  rw [State.portReset_eq]
  unfold State.inAdmissionOrder
  rw [State.exch_regroup, State.exch_endLeases (s.portCleared_claimless p), Exchange.regroup_self, cleared]

theorem State.entry_portReset (s : State) (p : Port) (k : Slot) :
    (s.portReset p).entry p k = (s.entry p k).portReset := by
  rw [← State.entry_portCleared]
  unfold State.entry
  rw [State.exch_portReset, show (s.portCleared p).exch p = (s.exch p).portReset from State.exch_setExch_same _ p _]

/-- The Notice List of a port after its reset (R166). -/
theorem State.noticeList_portReset (s : State) (p : Port) : (s.portReset p).noticeList p = [] := by
  have cleared : (s.portCleared p).noticeList p = [] := State.noticeList_setNotices_same s p []
  have regrouped : ∀ t : State, ((s.portCleared p).regroup t).noticeList p = t.noticeList p := fun _ => rfl
  rw [State.portReset_eq, State.inAdmissionOrder, regrouped, State.noticeList_endLeases, cleared]

theorem State.TableWork.links {s t : State} (h : s.TableWork t) : t.links = s.links := by
  rw [show t = _ from h]

/-- The link records after a port reset (R167): flags and mask of the port are cleared. -/
theorem State.link_portReset (s : State) (p q : Port) : (s.portReset p).link q =
    if q = p then { s.link p with flags := .clear, mask := .clear } else s.link q := by
  unfold State.link
  rw [(s.portReset_work p).links]
  exact PerPort.get_set ..

/-- The records that a port reset can reach. -/
theorem State.portReset_frame (s : State) (p : Port) : s.portReset p = { s with
    links := (s.portReset p).links, exchs := (s.portReset p).exchs, notices := (s.portReset p).notices,
    regions := (s.portReset p).regions, seqs := (s.portReset p).seqs } := by
  have work := s.portReset_work p
  generalize s.portReset p = t at work
  rw [show t = _ from work]
  rfl

/-- Settles O15: the confirm byte, then the port's own records, which the ends of its leases do not reach. -/
theorem portResetAtLinkAndExchange : Obligations.PortResetAtLinkAndExchange := by
  intro s p h
  obtain ⟨l, hl⟩ : ∃ l, l = { s.link p with phase := .ignored, count := 0 } := ⟨_, rfl⟩
  have run : ∀ b, exec (.linkResetConfirm p b) s = .next (if b = confirmReset then (s.setLink p l).portReset p
      else s.setLink p l) := fun b => by rw [hl]; exact execLinkResetConfirm_eq h b
  have entry : ∀ k, ((s.setLink p l).portReset p).entry p k = (s.entry p k).portReset := fun k =>
    State.entry_portReset _ p k
  have exch : ((s.setLink p l).portReset p).exch p = (s.exch p).portReset := State.exch_portReset _ p
  refine ⟨fun b hb => ?_, _, (run _).trans (congrArg _ (if_pos rfl)), ?_, fun q hq => ?_,
    State.noticeList_portReset _ p, ?_, ?_, ?_, fun k hd => ?_, fun k ha => ?_, fun k ha hd => ?_,
    State.portReset_frame _ p⟩
  · rw [run, if_neg (show ¬ b = confirmReset from hb), hl]
  · rw [State.link_portReset, if_pos rfl, State.link_setLink_same, hl]
    rfl
  · rw [State.link_portReset, if_neg hq, State.link_setLink, if_neg hq]
  · rw [exch]
    rfl
  · rw [exch]
    rfl
  · rw [exch]
    refine List.filter_congr fun k _ => ?_
    show (s.entry p k).state.running = _
    cases (s.entry p k).state <;> rfl
  · rw [entry]
    unfold Entry.portReset
    simp only [hd]
  · rw [entry]
    unfold Entry.portReset
    simp only [ha, Bool.and_eq_true, beq_iff_eq]
  · rw [entry]
    unfold Entry.portReset
    split
    · rename_i e; exact absurd e ha
    · rename_i e; exact absurd e hd
    all_goals rfl

end Sys2Proof.Machine
end

section
/-! What a command of a host link and a request can come to, and what every command leaves of the Exchanges and of the
queue (R137, R144, R145): O3, O54 and O55. -/

namespace Sys2Proof.Machine

/-! ### What a command of a host link can come to -/

/-- A new link record of the port carries an answer only where the link carried it already, or where a TAKE chooses it
(R159). -/
def State.Carries (s : State) (p : Port) (l : Link) : Prop := ∀ k, l.item = some (.answer k) →
  (l.phase = .takeOut ∧ k ∈ (s.exch p).answers) ∨
    ((s.link p).item = some (.answer k) ∧ (l.phase = (s.link p).phase ∨ (s.link p).phase ≠ .takeOut))

theorem State.Carries.of_empty {s : State} {p : Port} {l : Link} (h : l.item = none) : s.Carries p l := fun k hk => by
  rw [h] at hk
  cases hk

theorem State.Carries.of_same {s : State} {p : Port} {l : Link} (item : l.item = (s.link p).item)
    (phase : l.phase = (s.link p).phase ∨ (s.link p).phase ≠ .takeOut) : s.Carries p l :=
  fun _ hk => .inr ⟨item ▸ hk, phase⟩

/-- A link that waits for a frame is shifting no item out. -/
theorem State.Carries.of_awaits {s : State} {p : Port} {l : Link} (h : (s.link p).awaitsFrame = true)
    (item : l.item = (s.link p).item) : s.Carries p l := by
  refine .of_same item (.inr fun hp => ?_)
  simp only [Link.awaitsFrame, hp, Bool.and_eq_true, beq_iff_eq] at h
  exact nomatch h.1.1.1.2

/-- What a command of a link that is neither a request nor a port reset can come to: nothing, a new link record, an entry
that is taken and answered MALFORMED (R141), or the delivery of the item in transit (R159). -/
inductive State.LinkNext (s : State) (c : Instr) : State → Prop
  | same : LinkNext s c s
  | link {p : Port} {l : Link} (carries : s.Carries p l) : LinkNext s c (s.setLink p l)
  | refused {p : Port} {l : Link} {tag kind : Byte} {k : Slot} {device : Option Dev} {region : Option RegionId}
      {q : Option Request} {payload : List Byte} (carries : s.Carries p l) (tagged : tag ≠ 0#8)
      (free : (s.exch p).tagHeld tag = false) (vacant : (s.exch p).vacantSlot = some k) :
      LinkNext s c (((s.setLink p l).setExch p
        ((s.exch p).take k tag kind device region q payload)).answer p k .malformed)
  | delivered {p : Port} {l : Link} {item : TakeItem} (own : c = .takeDelivery p)
      (transit : (s.link p).item = some item) (empty : l.item = none) :
      LinkNext s c ((s.setLink p l).delivered p item)

theorem State.LinkNext.whenDue {s t : State} {c : Instr} {due : Bool} {effect : State → State}
    (h : due = true → s.LinkNext c (effect s)) (e : whenDue due effect s = .next t) : s.LinkNext c t := by
  unfold Machine.whenDue at e
  cases e
  split
  · rename_i d; exact h d
  · exact .same

/-- A lead byte (R154, R159): only a TAKE writes an item. -/
theorem State.LinkNext.lead {s : State} (c : Instr) {p : Port} (h : s.shifts p .lead = true) (lead : Byte) :
    s.LinkNext c (s.leadCompletes p lead) := by
  have shifts := (s.shifts_iff p _).mp h
  have idle : (s.link p).phase ≠ .takeOut := by
    rw [shifts.inPhase]
    decide
  unfold State.leadCompletes
  rw [State.byteIn_whole shifts]
  unfold State.decoded
  split
  · exact .link (.of_same rfl (.inr idle))
  · refine .link fun k hk => .inl ⟨rfl, ?_⟩
    have chosen : s.chosenItem p = .answer k := Option.some.inj hk
    unfold State.chosenItem at chosen
    split at chosen
    · rename_i j rest answers
      cases chosen
      rw [answers]
      exact List.mem_cons_self ..
    · split at chosen <;> cases chosen
  · exact .link (.of_same rfl (.inr idle))
  · exact .link (.of_same rfl (.inr idle))
  · exact .link (.of_same rfl (.inr idle))

/-- A frame that fails test 4 of R138 (R141). -/
theorem State.LinkNext.unknownKind {s t : State} {p : Port} {tag kind : Byte} {params : List Byte}
    (due : (s.frameDue p && decide (params.length ≤ Config.maxDeclared) && !acceptsFrame kind params.length) = true)
    (e : exec (.unknownKind p tag kind params) s = .next t) : s.LinkNext (.unknownKind p tag kind params) t := by
  simp only [Bool.and_eq_true, frameDue_iff, decide_eq_true_eq, Bool.not_eq_true'] at due
  obtain ⟨⟨⟨resetn, awaits⟩, short⟩, unfit⟩ := due
  rw [exec_unknownKind resetn awaits short unfit] at e
  cases e
  have relink : ∀ l, (s.setLink p ((s.link p).afterFrame tag kind params)).setLink p l = s.setLink p l :=
    s.setLink_setLink p _
  by_cases clash : tag = 0#8 ∨ (s.exch p).tagHeld tag = true
  · rw [State.admitFrame_clash (s := s.setLink p _) clash, State.flagTagClash, relink]
    exact .link (.of_awaits awaits (by rw [State.link_setLink_same]; rfl))
  · rw [not_or, Bool.not_eq_true] at clash
    obtain ⟨tagged, free⟩ := clash
    cases vacant : (s.exch p).vacantSlot with
    | none =>
      rw [State.admitFrame_full (s := s.setLink p _) tagged free vacant, State.flagOverrun, relink]
      exact .link (.of_awaits awaits (by rw [State.link_setLink_same]; rfl))
    | some k =>
      rw [State.admitFrame_taken (s := s.setLink p _) tagged free vacant]
      exact .refused (.of_awaits awaits rfl) tagged free vacant

theorem exec_linkNext {c : Instr} (hc : isTransport c = true) {s t : State} (e : exec c s = .next t) :
    s.LinkNext c t := by
  cases c
  all_goals first | (cases hc; done) | skip
  case selectFall p =>
    refine .whenDue (fun _ => ?_) (show execSelectFall p s = .next t from e)
    unfold State.selectFallen
    split
    · exact .link (.of_empty rfl)
    · exact .link (.of_same rfl (.inl rfl))
  case selectRise p =>
    refine .whenDue (fun _ => ?_) (show execSelectRise p s = .next t from e)
    unfold State.selectRisen
    split
    · exact .link (.of_empty rfl)
    · exact .link (.of_same rfl (.inl rfl))
  case unknownLead p lead =>
    exact .whenDue (fun due => .lead _ (Bool.and_eq_true_iff.mp due).1 lead)
      (show execUnknownLead p lead s = .next t from e)
  case put p => exact .whenDue (fun due => .lead _ due _) (show execPut p s = .next t from e)
  case take p => exact .whenDue (fun due => .lead _ due _) (show execTake p s = .next t from e)
  case status p => exact .whenDue (fun due => .lead _ due _) (show execStatus p s = .next t from e)
  case linkReset p => exact .whenDue (fun due => .lead _ due _) (show execLinkReset p s = .next t from e)
  case frameTooLong p tag kind declared =>
    refine .whenDue (fun due => ?_) (show execFrameTooLong p tag kind declared s = .next t from e)
    simp only [Bool.and_eq_true, frameDue_iff, decide_eq_true_eq] at due
    obtain ⟨⟨-, awaits⟩, long⟩ := due
    rw [receiveFrame_bytes s p awaits, Link.receive_frameHead _ awaits, if_pos long]
    exact .link (.of_awaits awaits rfl)
  case checkMismatch p tag kind params check =>
    refine .whenDue (fun due => ?_) (show execCheckMismatch p tag kind params check s = .next t from e)
    simp only [Bool.and_eq_true, frameDue_iff, decide_eq_true_eq, bne_iff_ne] at due
    obtain ⟨⟨⟨-, awaits⟩, short⟩, differs⟩ := due
    rw [receiveFrame_bytes s p awaits, Link.receive_frameWith _ awaits tag kind params short check differs]
    exact .link (.of_awaits awaits rfl)
  case unknownKind p tag kind params =>
    cases due : s.frameDue p && decide (params.length ≤ Config.maxDeclared) && !acceptsFrame kind params.length
    · have idle : execUnknownKind p tag kind params s = .next s := whenDue_false due
      cases idle.symm.trans e
      exact .same
    · exact .unknownKind due e
  case takeDelivery p =>
    refine .whenDue (fun due => ?_) (show execTakeDelivery p s = .next t from e)
    obtain ⟨item, transit⟩ := Option.isSome_iff_exists.mp due
    rw [transit]
    refine .delivered rfl ?_ rfl
    unfold State.itemInTransit at transit
    split at transit
    · exact transit
    · cases transit
  case statusFlagsClear p =>
    refine .whenDue (fun _ => ?_) (show execStatusFlagsClear p s = .next t from e)
    exact .link (.of_same rfl (.inl rfl))

/-- What a request can come to: nothing, a new link record, or the action of its kind (R138). -/
theorem request_linkNext {p : Port} {tag : Byte} {q : Request} {act : Slot → State → State} {s t : State}
    (e : request p tag q act s = .next t) :
    t = s ∨ (∃ l, s.Carries p l ∧ t = s.setLink p l) ∨ ∃ k, s.Admits p tag q k ∧ t = act k (s.admitted p tag q k) := by
  cases due : s.frameDue p && acceptsFrame q.code q.wire.length
  · rw [show request p tag q act s = .next s from whenDue_false due] at e
    cases e
    exact .inl rfl
  rw [Bool.and_eq_true, frameDue_iff] at due
  obtain ⟨⟨resetn, awaits⟩, fits⟩ := due
  have receives : s.Receives p q := ⟨resetn, awaits, fits⟩
  by_cases clash : tag = 0#8 ∨ (s.exch p).tagHeld tag = true
  · rw [request_received receives, State.admitFrame_clash (s := s.received p tag q) clash] at e
    cases e
    exact .inr (.inl ⟨_, .of_awaits awaits (by rw [State.received, State.link_setLink_same]; rfl),
      s.setLink_setLink p _ _⟩)
  · rw [not_or, Bool.not_eq_true] at clash
    obtain ⟨tagged, free⟩ := clash
    cases vacant : (s.exch p).vacantSlot with
    | none =>
      rw [request_received receives, State.admitFrame_full (s := s.received p tag q) tagged free vacant] at e
      cases e
      exact .inr (.inl ⟨_, .of_awaits awaits (by rw [State.received, State.link_setLink_same]; rfl),
        s.setLink_setLink p _ _⟩)
    | some k =>
      have a : s.Admits p tag q k := ⟨receives, tagged, free, vacant⟩
      rw [request_admitted a] at e
      cases e
      exact .inr (.inr ⟨k, a, rfl⟩)

/-- The confirm byte of a LINK RESET: nothing where it is not due, else the port reset or the link alone (R165). -/
theorem exec_linkResetConfirm_next {s t : State} {p : Port} {b : Byte} (e : exec (.linkResetConfirm p b) s = .next t) :
    t = s ∨ s.Shifts p .resetConfirm ∧ ∃ l, l = { s.link p with phase := .ignored, count := 0 } ∧
      t = if b = confirmReset then (s.setLink p l).portReset p else s.setLink p l := by
  cases hs : s.shifts p .resetConfirm
  · have idle : execLinkResetConfirm p b s = .next s := whenDue_false hs
    cases idle.symm.trans e
    exact .inl rfl
  · have shifts := (s.shifts_iff p _).mp hs
    rw [show exec (.linkResetConfirm p b) s = execLinkResetConfirm p b s from rfl, execLinkResetConfirm_eq shifts] at e
    cases e
    exact .inr ⟨shifts, _, rfl, rfl⟩

/-- A reset of the part leaves its state after the reset, or nothing happens (R189). -/
theorem exec_reset_next {c : Instr} {s t : State}
    (h : (∃ a b d, c = .powerOn a b d) ∨ ∃ a b d, c = .resetnRelease a b d) (e : exec c s = .next t) :
    t = s ∨ ∃ admin first, t = s.resetAction admin first := by
  obtain ⟨a, b, d, rfl⟩ | ⟨a, b, d, rfl⟩ := h
  · cases e
    exact .inr ⟨_, _, rfl⟩
  · cases hr : s.resetn
    · rw [exec_reset (.inr ⟨rfl, hr⟩)] at e
      cases e
      exact .inr ⟨_, _, rfl⟩
    · have idle : execResetnRelease a b d s = .next s := whenDue_false (by rw [hr]; rfl)
      cases idle.symm.trans e
      exact .inl rfl

/-- The fall of RESETN reaches the links, the bus and the level of the pin (R189). -/
theorem exec_resetnAssert_next {s t : State} (e : exec .resetnAssert s = .next t) : t = s ∨ t = s.resetAsserted := by
  cases hr : s.resetn
  · have idle : execResetnAssert s = .next s := whenDue_false hr
    cases idle.symm.trans e
    exact .inl rfl
  · have falls : execResetnAssert s = .next s.resetAsserted := whenDue_true hr
    cases falls.symm.trans e
    exact .inr rfl

/-- A command that is no request, no event inside the part and no transport of a link is a reset (R165, R189). -/
theorem isReset_of_not {c : Instr} (hq : requestOf c = none) (hi : isInner c = false) (ht : isTransport c = false) :
    c = .resetnAssert ∨ ((∃ a b d, c = .powerOn a b d) ∨ ∃ a b d, c = .resetnRelease a b d) ∨
      ∃ p b, c = .linkResetConfirm p b := by
  cases c
  all_goals first | (cases hq; done) | (cases hi; done) | (cases ht; done) | skip
  case resetnAssert => exact .inl rfl
  case powerOn a b d => exact .inr (.inl (.inl ⟨a, b, d, rfl⟩))
  case resetnRelease a b d => exact .inr (.inl (.inr ⟨a, b, d, rfl⟩))
  case linkResetConfirm p b => exact .inr (.inr ⟨p, b, rfl⟩)

/-! ### The queue -/

theorem State.LinkNext.pending {s t : State} {c : Instr} (h : s.LinkNext c t) : t.pending = s.pending := by
  cases h with
  | same => rfl
  | link => rfl
  | refused => rfl
  | @delivered p l item => cases item <;> rfl

theorem State.TableWork.pending {s t : State} (h : s.TableWork t) : t.pending = s.pending := by
  rw [show t = _ from h]

theorem State.resetAction_keeps (s : State) (admin : Option Port) (first : Dev) :
    (State.blocksReset admin ⟨.atReset s.links.a.selectLow, .atReset s.links.b.selectLow,
      .atReset s.links.c.selectLow⟩ s.pending).Keeps (s.resetAction admin first) :=
  (State.place_keeps _ first _).trans (State.place_keeps _ _ _)

/-- No command reaches the queue. -/
theorem exec_pending {c : Instr} {s t : State} (e : exec c s = .next t) : t.pending = s.pending := by
  cases hq : requestOf c with
  | some x =>
    obtain ⟨p, tag, q⟩ := x
    rw [exec_of_requestOf hq] at e
    obtain rfl | ⟨l, -, rfl⟩ | ⟨k, -, rfl⟩ := request_linkNext e
    · rfl
    · rfl
    · exact (Request.act_keepsExchanges q p k (by rw [State.entry_admitted_same])).pending
  | none =>
    cases hi : isInner c
    case true => exact (exec_keeps_of_inner hi e).holds.pending
    cases ht : isTransport c
    case true => exact (exec_linkNext ht e).pending
    obtain rfl | reset | ⟨p, b, rfl⟩ := isReset_of_not hq hi ht
    · obtain rfl | rfl := exec_resetnAssert_next e <;> rfl
    · obtain rfl | ⟨admin, first, rfl⟩ := exec_reset_next reset e
      · rfl
      · exact (s.resetAction_keeps admin first).holds.pending
    · obtain rfl | ⟨-, l, -, rfl⟩ := exec_linkResetConfirm_next e
      · rfl
      · split
        · exact (State.portReset_work _ p).pending
        · rfl

/-- Settles O3: every meaning is an effect where its occasion is there, and no effect reaches the queue. -/
theorem everyCommandGivesANextState : Obligations.EveryCommandGivesANextState := by
  intro c s
  have next : ∃ t, exec c s = .next t := by cases c <;> exact ⟨_, rfl⟩
  obtain ⟨t, e⟩ := next
  exact ⟨t, e, exec_pending e⟩

/-! ### Answered entries (R137, R144, R145) -/

/-- What every command but a delivery and a reset leaves of an Exchange: its ANSWERED entries, its form, and the Answer List
as a first part of the new one. -/
structure Exchange.Stands (x y : Exchange) : Prop where
  settled : ∀ k, (x.entry k).state = .answered → y.entry k = x.entry k
  form    : x.WellFormed → y.WellFormed ∧ x.answers <+: y.answers

theorem Exchange.Stands.refl (x : Exchange) : x.Stands x := ⟨fun _ _ => rfl, fun w => ⟨w, List.prefix_refl _⟩⟩

theorem Exchange.Stands.trans {x y z : Exchange} (h : x.Stands y) (g : y.Stands z) : x.Stands z where
  settled k hk := by
    have e := h.settled k hk
    rw [← e]
    exact g.settled k (by rw [e]; exact hk)
  form w := ⟨(g.form (h.form w).1).1, (h.form w).2.trans (g.form (h.form w).1).2⟩

theorem Exchange.Keeps.stands {x y : Exchange} (h : x.Keeps y) : x.Stands y := ⟨fun k hk => h.settled k (.inl hk), h.form⟩

/-- The slot that `vacantSlot` gives is VACANT (R139). -/
theorem Exchange.vacant_of_vacantSlot {x : Exchange} {k : Slot} (h : x.vacantSlot = some k) :
    (x.entry k).state = .vacant := beq_iff_eq.mp (List.find?_some (p := fun k => (x.entry k).state == .vacant) h)

/-- Taking a VACANT slot (R139). -/
theorem Exchange.take_stands {x : Exchange} {k : Slot} {tag : Byte} (vacant : x.vacantSlot = some k)
    (tagged : tag ≠ 0#8) (free : x.tagHeld tag = false) (kind : Byte) (device : Option Dev) (region : Option RegionId)
    (q : Option Request) (payload : List Byte) : x.Stands (x.take k tag kind device region q payload) := by
  have was := Exchange.vacant_of_vacantSlot vacant
  refine ⟨fun j hj => ?_, fun w => ⟨x.take_form w k was tag kind tagged free _ _ _ _, List.prefix_refl _⟩⟩
  refine (Exchange.entry_put x k j _).trans (if_neg ?_)
  rintro rfl
  exact nomatch hj.symm.trans was

theorem State.setExch_stands {s : State} {p : Port} {x : Exchange} (h : (s.exch p).Stands x) (r : Port) :
    (s.exch r).Stands ((s.setExch p x).exch r) := by
  rw [State.exch_setExch]
  split
  · rename_i e; rw [e]; exact h
  · exact .refl _

theorem State.Admits.stands {s : State} {p : Port} {tag : Byte} {q : Request} {k : Slot} (a : s.Admits p tag q k)
    (r : Port) : (s.exch r).Stands ((s.admitted p tag q k).exch r) :=
  State.setExch_stands (s := s.received p tag q) (Exchange.take_stands a.vacant a.tagged a.tagFree _ _ _ _ _) r

/-- A command of a link leaves the Exchange of every port, but for the entry that its own port's TAKE delivers. -/
theorem State.LinkNext.stands {s t : State} {c : Instr} (h : s.LinkNext c t) {r : Port} (deliver : c ≠ .takeDelivery r) :
    (s.exch r).Stands (t.exch r) := by
  cases h with
  | same => exact .refl _
  | link => exact .refl _
  | @refused p l tag kind k device region q payload _ tagged free vacant =>
    have taken : (s.exch p).Stands ((s.exch p).take k tag kind device region q payload) :=
      Exchange.take_stands vacant tagged free kind device region q payload
    exact (State.setExch_stands (s := s.setLink p l) taken r).trans
      ((State.answer_keeps _ p k _ _ _).holds.exchs r).stands
  | @delivered p l item own =>
    cases item with
    | answer k =>
      have other : r ≠ p := fun e => deliver (e ▸ own)
      have same : (((s.setLink p l).vacate p k).exch r) = s.exch r :=
        (State.exch_setExch ..).trans (if_neg other)
      exact same ▸ .refl _
    | notice n => exact .refl _
    | empty => exact .refl _

/-- The reset of another port (R150). -/
theorem State.portReset_stands (s : State) {p r : Port} (h : r ≠ p) : (s.exch r).Stands ((s.portReset p).exch r) := by
  have cleared : (s.portCleared p).exch r = s.exch r := (PerPort.get_set ..).trans (if_neg h)
  have ended : (s.portCleared p).Keeps (s.portReset p) :=
    (s.portCleared p).inAdmissionOrder_keeps (fun t => t.endLeases p) (State.endLeases_keeps _ p)
  have stands := (ended.holds.exchs r).stands
  rw [cleared] at stands
  exact stands

/-- Every command but the port's own deliveries and the resets leaves the answers of a port. -/
theorem exec_stands {c : Instr} {s t : State} (e : exec c s = .next t) {r : Port} (deliver : c ≠ .takeDelivery r)
    (confirm : c ≠ .linkResetConfirm r confirmReset)
    (reset : ¬ ((∃ a b d, c = .powerOn a b d) ∨ ∃ a b d, c = .resetnRelease a b d)) :
    (s.exch r).Stands (t.exch r) := by
  cases hq : requestOf c with
  | some x =>
    obtain ⟨p, tag, q⟩ := x
    rw [exec_of_requestOf hq] at e
    obtain rfl | ⟨l, -, rfl⟩ | ⟨k, a, rfl⟩ := request_linkNext e
    · exact .refl _
    · exact .refl _
    · have kept := Request.act_keepsExchanges q p k (s := s.admitted p tag q k) (by rw [State.entry_admitted_same])
      exact (a.stands r).trans (kept.exchs r).stands
  | none =>
    cases hi : isInner c
    case true => exact ((exec_keeps_of_inner hi e).holds.exchs r).stands
    cases ht : isTransport c
    case true => exact (exec_linkNext ht e).stands deliver
    obtain rfl | power | ⟨p, b, rfl⟩ := isReset_of_not hq hi ht
    · obtain rfl | rfl := exec_resetnAssert_next e <;> exact .refl _
    · exact absurd power reset
    · obtain rfl | ⟨-, l, -, rfl⟩ := exec_linkResetConfirm_next e
      · exact .refl _
      · split
        · rename_i hb
          have other : r ≠ p := fun h => confirm (by rw [h, hb])
          exact State.portReset_stands (s.setLink p l) other
        · exact .refl _

/-- Settles O54: the answers of a port stand under every command but its own deliveries and the resets. -/
theorem answeredEntriesStandUntilTaken : Obligations.AnsweredEntriesStandUntilTaken := by
  intro s t c p k answered e deliver confirm power release
  have stands := exec_stands e deliver confirm (by
    rintro (⟨a, b, d, h⟩ | ⟨a, b, d, h⟩)
    · exact power a b d h
    · exact release a b d h)
  exact ⟨stands.settled k answered, fun w => (stands.form w).2⟩

/-! ### Well-formed Exchanges (R134, R135, R140, R145) -/

theorem State.resetAction_form (s : State) (admin : Option Port) (first : Dev) (p : Port) :
    ((s.resetAction admin first).exch p).WellFormed := by
  refine (((s.resetAction_keeps admin first).holds.exchs p).form ?_).1
  cases p <;> exact Exchange.initial_form

/-- A delivery makes at most one entry VACANT (R145). -/
theorem State.delivered_form {s : State} {p : Port} (h : (s.exch p).WellFormed) (item : TakeItem) :
    ((s.delivered p item).exch p).WellFormed := by
  cases item with
  | answer k => exact (s.exch_vacate p k).symm ▸ Exchange.vacate_form _ k h
  | notice n => exact h
  | empty => exact h

/-- Every command keeps the Exchange of a port well formed: its delivery and the resets by what they write, every other
command as it leaves the answers. -/
theorem exec_exchangeFormed {c : Instr} {s t : State} (e : exec c s = .next t) {p : Port} (w : (s.exch p).WellFormed) :
    (t.exch p).WellFormed := by
  by_cases reset : (∃ a b d, c = .powerOn a b d) ∨ ∃ a b d, c = .resetnRelease a b d
  · obtain rfl | ⟨admin, first, rfl⟩ := exec_reset_next reset e
    · exact w
    · exact s.resetAction_form admin first p
  by_cases deliver : c = .takeDelivery p
  · subst deliver
    cases exec_linkNext rfl e with
    | @delivered q l item own =>
      cases own
      exact State.delivered_form (s := s.setLink p l) w item
    | same => exact w
    | link => exact w
    | @refused q l tag kind k device region r payload carries tagged free vacant =>
      exact (((State.LinkNext.refused (c := .put q) carries tagged free vacant).stands (by simp)).form w).1
  by_cases confirm : c = .linkResetConfirm p confirmReset
  · subst confirm
    obtain rfl | ⟨-, l, -, rfl⟩ := exec_linkResetConfirm_next e
    · exact w
    · rw [if_pos rfl, State.exch_portReset]
      exact Exchange.portReset_form _ w
  exact ((exec_stands e deliver confirm reset).form w).1

/-- Settles O55: the idle step reaches the bus alone, and every command keeps each Exchange well formed. -/
theorem stepsKeepTheExchanges : Obligations.StepsKeepTheExchanges := by
  intro s t w e p
  unfold step at e
  split at e
  · cases e
    have same : s.idle.exch p = s.exch p := by unfold State.idle; split <;> rfl
    exact same ▸ w p
  · rename_i rest _
    exact exec_exchangeFormed (s := { s with pending := rest }) e (w p)

end Sys2Proof.Machine
end

section
/-! The references to WAITING entries (R143): what names an entry, when a name is right, and that the operations of the
Region Table keep right names right. -/

namespace Sys2Proof.Machine

/-! ### What names an entry -/

/-- What can name a WAITING entry (R143): a claim record, a waiting RELEASE or a pending retire of a region, or the
waiting request of a device. -/
inductive Reference where
  | claim (n : RegionId)
  | release (n : RegionId)
  | retire (n : RegionId)
  | device (d : Dev)

/-- The reference names the entry in slot j of port q. A waiting RELEASE is one of the region's holder (R39). -/
def State.Refers (s : State) (x : Reference) (q : Port) (j : Slot) : Prop :=
  match x with
  | .claim n => ∃ c ∈ (s.region n).queue, c.port = q ∧ c.slot = j
  | .release n => (s.region n).holder = some q ∧ (s.region n).release = some j
  | .retire n => (s.region n).pendingRetire = some ⟨q, j⟩
  | .device d => (s.seq d).waitingRequest = some ⟨q, j⟩

/-- The entry waits with the request that the reference is for (R143). -/
def Reference.Fits (x : Reference) (e : Entry) : Prop :=
  match x with
  | .claim n => e.state = .waiting ∧ e.kind = some 0x11#8 ∧ e.region = some n
  | .release n => e.state = .waiting ∧ e.kind = some 0x13#8 ∧ e.region = some n
  | .retire n => e.state = .waiting ∧ e.kind = some 0x32#8 ∧ e.region = some n
  | .device d => e.state = .waiting ∧ (e.kind = some 0x34#8 ∨ e.kind = some 0x35#8) ∧ e.device = some d

theorem Reference.Fits.waiting {x : Reference} {e : Entry} (h : x.Fits e) : e.state = .waiting := by
  cases x <;> exact h.1

/-- The kind and the region or device of an entry decide what can name it. -/
theorem Reference.Fits.unique {x y : Reference} {e : Entry} (h : x.Fits e) (g : y.Fits e) : x = y := by
  cases x <;> cases y
  case claim.claim | release.release | retire.retire | device.device =>
    obtain ⟨-, -, hf⟩ := h
    obtain ⟨-, -, gf⟩ := g
    cases hf.symm.trans gf
    rfl
  all_goals simp_all [Reference.Fits]

/-- Every reference names an entry that waits with its request, but for a port whose reset is going on: `out`. -/
structure State.RefersRight (s : State) (out : Option Port) : Prop where
  once : ∀ n, ((s.region n).queue.map ClaimRecord.port).Nodup
  held : ∀ n k, (s.region n).release = some k → ∃ p, (s.region n).holder = some p
  fits : ∀ x q j, some q ≠ out → s.Refers x q j → x.Fits (s.entry q j)

/-- Right references and the items in transit are what WaitsReferred says. -/
theorem State.RefersRight.waitsReferred {s : State} (h : s.RefersRight none)
    (items : ∀ p k, (s.link p).item = some (.answer k) →
      (s.link p).phase = .takeOut ∧ (s.entry p k).state = .answered) : s.WaitsReferred where
  claims n c hc :=
    have ⟨hs, hk, hr⟩ := h.fits (.claim n) c.port c.slot (nomatch ·) ⟨c, hc, rfl, rfl⟩
    ⟨⟨hs, hk⟩, hr⟩
  releases n k hk :=
    have ⟨p, hp⟩ := h.held n k hk
    have ⟨hs, hk, hr⟩ := h.fits (.release n) p k (nomatch ·) ⟨hp, hk⟩
    ⟨p, hp, ⟨hs, hk⟩, hr⟩
  retires n e he :=
    have ⟨hs, hk, hr⟩ := h.fits (.retire n) e.port e.slot (nomatch ·) he
    ⟨⟨hs, hk⟩, hr⟩
  devices d e he :=
    have ⟨hs, hk, hr⟩ := h.fits (.device d) e.port e.slot (nomatch ·) he
    ⟨hk.imp (⟨hs, ·⟩) (⟨hs, ·⟩), hr⟩
  items := items

theorem State.WaitsReferred.refersRight {s : State} (w : s.WaitsReferred) (form : ∀ n, (s.region n).WellFormed) :
    s.RefersRight none where
  once n := (form n).queueOnce
  held n k hk := (w.releases n k hk).imp fun _ h => h.1
  fits x q j _ h := by
    cases x with
    | claim n =>
      obtain ⟨c, hc, rfl, rfl⟩ := h
      obtain ⟨⟨hs, hk⟩, hr⟩ := w.claims n c hc
      exact ⟨hs, hk, hr⟩
    | release n =>
      obtain ⟨hq, hj⟩ := h
      obtain ⟨p, hp, ⟨hs, hk⟩, hr⟩ := w.releases n j hj
      cases hq.symm.trans hp
      exact ⟨hs, hk, hr⟩
    | retire n =>
      obtain ⟨⟨hs, hk⟩, hr⟩ := w.retires n _ h
      exact ⟨hs, hk, hr⟩
    | device d =>
      obtain ⟨hk, hd⟩ := w.devices d _ h
      exact ⟨hk.elim And.left And.left, hk.imp And.right And.right, hd⟩

/-- Nothing names the entry. -/
def State.Unreferred (s : State) (q : Port) (j : Slot) : Prop := ∀ x, ¬ s.Refers x q j

/-- No right reference names the entry, so it may change. -/
def State.Loose (s : State) (q : Port) (j : Slot) : Prop := ∀ x, s.Refers x q j → ¬ x.Fits (s.entry q j)

theorem State.Unreferred.loose {s : State} {q : Port} {j : Slot} (h : s.Unreferred q j) : s.Loose q j :=
  fun x hx => absurd hx (h x)

/-- What does not wait is named by nothing. -/
theorem State.loose_of_state {s : State} {q : Port} {j : Slot} (h : (s.entry q j).state ≠ .waiting) : s.Loose q j :=
  fun _ _ hf => h hf.waiting

theorem State.RefersRight.unreferred {s : State} (r : s.RefersRight none) {q : Port} {j : Slot}
    (h : (s.entry q j).state ≠ .waiting) : s.Unreferred q j :=
  fun x hx => h (r.fits x q j (nomatch ·) hx).waiting

/-! ### What keeps right references right -/

/-- Right references stay right, and no entry is named anew. -/
structure State.KeepsReferences (s t : State) : Prop where
  right : ∀ out, s.RefersRight out → t.RefersRight out
  fewer : ∀ x q j, t.Refers x q j → s.Refers x q j

theorem State.KeepsReferences.refl (s : State) : s.KeepsReferences s := ⟨fun _ h => h, fun _ _ _ h => h⟩

theorem State.KeepsReferences.trans {s t u : State} (h : s.KeepsReferences t) (g : t.KeepsReferences u) :
    s.KeepsReferences u := ⟨fun out r => g.right out (h.right out r), fun x q j r => h.fewer x q j (g.fewer x q j r)⟩

theorem State.KeepsReferences.unreferred {s t : State} (h : s.KeepsReferences t) {q : Port} {j : Slot}
    (u : s.Unreferred q j) : t.Unreferred q j := fun x hx => u x (h.fewer x q j hx)

/-- The references of a region record that another one has as well. -/
structure Region.Inherits (r q : Region) : Prop where
  ports   : (q.queue.map ClaimRecord.port).Sublist (r.queue.map ClaimRecord.port)
  claims  : ∀ c ∈ q.queue, ∃ b ∈ r.queue, b.port = c.port ∧ b.slot = c.slot
  release : ∀ k, q.release = some k → r.release = some k ∧ q.holder = r.holder
  retire  : ∀ e, q.pendingRetire = some e → r.pendingRetire = some e

/-- A region record that has lost claims at most. -/
theorem Region.Inherits.of_sublist {r q : Region} (queue : q.queue.Sublist r.queue)
    (release : ∀ k, q.release = some k → r.release = some k ∧ q.holder = r.holder)
    (retire : ∀ e, q.pendingRetire = some e → r.pendingRetire = some e) : r.Inherits q :=
  ⟨queue.map _, fun c hc => ⟨c, queue.subset hc, rfl, rfl⟩, release, retire⟩

/-- A region record that differs in other fields. -/
theorem Region.Inherits.of_same {r q : Region} (queue : q.queue = r.queue) (release : q.release = r.release)
    (holder : q.holder = r.holder) (retire : q.pendingRetire = r.pendingRetire) : r.Inherits q :=
  .of_sublist (queue ▸ List.Sublist.refl _) (fun _ hk => ⟨release ▸ hk, holder⟩) fun _ he => retire ▸ he

theorem Region.Inherits.refl (r : Region) : r.Inherits r := .of_same rfl rfl rfl rfl

/-- A region record without a waiting RELEASE. -/
theorem Region.Inherits.unreleased {r q : Region} (queue : q.queue.Sublist r.queue) (release : q.release = none)
    (retire : q.pendingRetire = r.pendingRetire) : r.Inherits q :=
  .of_sublist queue (fun _ hk => (nomatch release.symm.trans hk)) fun _ he => retire ▸ he

theorem Region.inherits_free (r : Region) : r.Inherits .free :=
  .of_sublist (List.nil_sublist _) (fun _ h => nomatch h) fun _ h => nomatch h

theorem Region.sublist_leaseOver (x : Settings) (r : Region) : (r.leaseOver x).queue.Sublist r.queue := by
  cases h : r.queue with
  | nil => rw [Region.leaseOver_nil h]; exact h ▸ List.Sublist.refl _
  | cons c rest => rw [Region.leaseOver_cons h]; exact List.sublist_cons_self c rest

theorem Region.release_leaseOver (x : Settings) (r : Region) : (r.leaseOver x).release = none := by
  cases h : r.queue with
  | nil => rw [Region.leaseOver_nil h]; rfl
  | cons c rest => rw [Region.leaseOver_cons h]; rfl

theorem Region.retire_leaseOver (x : Settings) (r : Region) : (r.leaseOver x).pendingRetire = r.pendingRetire := by
  cases h : r.queue with
  | nil => rw [Region.leaseOver_nil h]; rfl
  | cons c rest => rw [Region.leaseOver_cons h]; rfl

theorem Region.inherits_leaseOver (x : Settings) (r : Region) : r.Inherits (r.leaseOver x) :=
  .unreleased (r.sublist_leaseOver x) (r.release_leaseOver x) (r.retire_leaseOver x)

theorem Region.inherits_closing (r : Region) : r.Inherits { r.leaseEnded with state := .closing } :=
  .unreleased (List.Sublist.refl _) rfl rfl

theorem Region.inherits_retired (r : Region) : r.Inherits r.retired := .unreleased (List.nil_sublist _) rfl rfl

theorem Region.inherits_withoutClaim (r : Region) (p : Port) : r.Inherits (r.withoutClaim p) :=
  .of_sublist List.filter_sublist (fun _ h => ⟨h, rfl⟩) fun _ h => h

theorem Region.inherits_msTick (r : Region) : r.Inherits r.msTick where
  ports := by
    rw [show r.msTick.queue.map ClaimRecord.port = r.queue.map ClaimRecord.port from List.map_map]
  claims c hc := by
    obtain ⟨b, hb, rfl⟩ := List.mem_map.mp hc
    exact ⟨b, hb, rfl, rfl⟩
  release _ h := ⟨h, rfl⟩
  retire _ h := h

/-- The references of a state whose regions and devices inherit theirs. -/
theorem State.refers_of_inherits {s t : State} (regions : ∀ n, (s.region n).Inherits (t.region n))
    (devices : ∀ d e, (t.seq d).waitingRequest = some e → (s.seq d).waitingRequest = some e)
    (x : Reference) (q : Port) (j : Slot) (h : t.Refers x q j) : s.Refers x q j := by
  cases x with
  | claim n =>
    obtain ⟨c, hc, rfl, rfl⟩ := h
    exact (regions n).claims c hc
  | release n =>
    obtain ⟨hq, hj⟩ := h
    obtain ⟨hr, hh⟩ := (regions n).release j hj
    exact ⟨hh ▸ hq, hr⟩
  | retire n => exact (regions n).retire _ h
  | device d => exact devices d _ h

/-- An action keeps right references right where it names nothing anew and each entry stays as it was, was named by
nothing right, or is no longer named by what named it. -/
theorem State.KeepsReferences.of_settled {s t : State} (regions : ∀ n, (s.region n).Inherits (t.region n))
    (devices : ∀ d e, (t.seq d).waitingRequest = some e → (s.seq d).waitingRequest = some e)
    (entries : (∀ n, ((s.region n).queue.map ClaimRecord.port).Nodup) → ∀ q j,
      t.entry q j = s.entry q j ∨ s.Loose q j ∨ ∃ y, s.Refers y q j ∧ ¬ t.Refers y q j) : s.KeepsReferences t where
  fewer := State.refers_of_inherits regions devices
  right out r :=
    { once := fun n => (r.once n).sublist (regions n).ports
      held := fun n k hk =>
        have ⟨hr, hh⟩ := (regions n).release k hk
        hh ▸ r.held n k hr
      fits := fun x q j hq hx => by
        have was := State.refers_of_inherits regions devices x q j hx
        have fit := r.fits x q j hq was
        obtain same | loose | ⟨y, hy, gone⟩ := entries r.once q j
        · rw [same]; exact fit
        · exact absurd fit (loose x was)
        · cases fit.unique (r.fits y q j hq hy)
          exact absurd hx gone }

/-- An action at one region that leaves the sequencers. -/
theorem State.KeepsReferences.of_region {s t : State} {n : RegionId} {r : Region} (seqs : t.seqs = s.seqs)
    (regions : ∀ m, t.region m = if m = n then r else s.region m) (inherits : (s.region n).Inherits r)
    (entries : (∀ n, ((s.region n).queue.map ClaimRecord.port).Nodup) → ∀ q j,
      t.entry q j = s.entry q j ∨ s.Loose q j ∨ ∃ y, s.Refers y q j ∧ ¬ t.Refers y q j) : s.KeepsReferences t := by
  refine .of_settled (fun m => ?_) (fun d e h => ?_) entries
  · rw [regions]
    split
    · rename_i e; rw [e]; exact inherits
    · exact .refl _
  · unfold State.seq at h ⊢; rw [← seqs]; exact h

/-- An action that reaches neither regions nor sequencers. -/
theorem State.KeepsReferences.of_entries {s t : State} (seqs : t.seqs = s.seqs) (regions : t.regions = s.regions)
    (entries : ∀ q j, t.entry q j = s.entry q j ∨ s.Loose q j) : s.KeepsReferences t :=
  .of_settled (fun n => State.region_of_regions regions n ▸ .refl _)
    (fun d e h => by unfold State.seq at h ⊢; rw [← seqs]; exact h)
    fun _ q j => (entries q j).imp id .inl

/-- An update of other records. -/
theorem State.KeepsReferences.of_same {s t : State} (exchs : t.exchs = s.exchs) (seqs : t.seqs = s.seqs)
    (regions : t.regions = s.regions) : s.KeepsReferences t :=
  .of_entries seqs regions fun q j => .inl (State.entry_of_exchs exchs q j)

theorem State.RefersRight.of_same {s t : State} {out : Option Port} (r : s.RefersRight out)
    (exchs : t.exchs = s.exchs) (seqs : t.seqs = s.seqs) (regions : t.regions = s.regions) : t.RefersRight out :=
  (State.KeepsReferences.of_same exchs seqs regions).right out r

theorem State.regroup_references {s t : State} (h : s.KeepsReferences t) : s.KeepsReferences (s.regroup t) :=
  h.trans (.of_entries rfl rfl fun q j => .inl (s.entry_regroup t q j))

/-! ### Entries -/

/-- A change of one entry that nothing right names. -/
theorem State.KeepsReferences.of_entry {s : State} {p : Port} {k : Slot} (h : s.Loose p k) {x : Exchange}
    (other : ∀ j, j ≠ k → x.entry j = s.entry p j) : s.KeepsReferences (s.setExch p x) := by
  refine .of_entries rfl rfl fun q j => ?_
  by_cases hq : q = p
  · subst hq
    by_cases hj : j = k
    · subst hj; exact .inr h
    · left
      unfold State.entry
      rw [State.exch_setExch_same]
      exact other j hj
  · left
    unfold State.entry
    rw [State.exch_setExch, if_neg hq]

theorem State.answer_references {s : State} {p : Port} {k : Slot} (h : s.Loose p k) (r : Result) (v : Values)
    (b : Option (List Byte)) : s.KeepsReferences (s.answer p k r v b) :=
  .of_entry h fun j hj => by rw [Exchange.entry_answer, if_neg hj]; rfl

theorem State.setEntry_references {s : State} {p : Port} {k : Slot} (h : s.Loose p k) (e : Entry) :
    s.KeepsReferences (s.setEntry p k e) :=
  .of_entry h fun j hj => by rw [Exchange.entry_put, if_neg hj]; rfl

theorem State.vacate_references {s : State} {p : Port} {k : Slot} (h : s.Loose p k) :
    s.KeepsReferences (s.vacate p k) :=
  .of_entry h fun j hj => (Exchange.entry_put (s.exch p) k j _).trans (if_neg hj)

theorem State.requestStop_references (s : State) (p : Port) (k : Slot) (x : StopRequest) :
    s.KeepsReferences (s.requestStop p k x) := by
  unfold State.requestStop
  dsimp only
  split
  · rename_i h
    rw [Bool.and_eq_true, beq_iff_eq] at h
    exact State.setEntry_references (State.loose_of_state (by rw [h.1]; decide)) _
  · exact .refl s

theorem State.endEntry_references {s : State} {p : Port} {k : Slot} (h : s.Loose p k) (x : Result) (v : Values)
    (b : Option (List Byte)) : s.KeepsReferences (s.endEntry p k x v b) := by
  unfold State.endEntry
  split
  · exact State.vacate_references h
  · exact State.answer_references h x v b

/-! ### The regions -/

theorem State.setRegion_references {s : State} {n : RegionId} {r : Region} (h : (s.region n).Inherits r) :
    s.KeepsReferences (s.setRegion n r) :=
  .of_region rfl (fun m => s.region_setRegion n m r) h fun _ _ _ => .inl rfl

/-- A claim at the head of a queue is not named by the queue after a hand-over (R32, R38). -/
theorem Region.head_leaves {r : Region} {c b : ClaimRecord} {rest : List ClaimRecord} {x : Settings}
    (once : (r.queue.map ClaimRecord.port).Nodup) (hq : r.queue = c :: rest) (hb : b ∈ (r.leaseOver x).queue) :
    b.port ≠ c.port := by
  rw [Region.leaseOver_cons hq] at hb
  rw [hq, List.map_cons, List.nodup_cons] at once
  exact fun e => once.1 (List.mem_map.mpr ⟨b, hb, e⟩)

/-- The end of a lease (R37, R38): what it answers was named by the region, which no longer names it. -/
theorem State.leaseEnd_settles {s : State} (n : RegionId) (ex : Port) (rel : Option Slot)
    (once : ∀ n, ((s.region n).queue.map ClaimRecord.port).Nodup) (q : Port) (j : Slot) :
    (s.leaseEnd n ex rel).entry q j = s.entry q j ∨ (q = ex ∧ rel = some j) ∨
      s.Refers (.claim n) q j ∧ ¬ (s.leaseEnd n ex rel).Refers (.claim n) q j := by
  by_cases ended : q = ex ∧ rel = some j
  · exact .inr (.inl ended)
  by_cases granted : ∃ c, (s.region n).queue.head? = some c ∧ q = c.port ∧ j = c.slot
  · obtain ⟨c, hc, rfl, rfl⟩ := granted
    obtain ⟨rest, hq⟩ := List.head?_eq_some_iff.mp hc
    refine .inr (.inr ⟨⟨c, hq ▸ List.mem_cons_self .., rfl, rfl⟩, ?_⟩)
    rintro ⟨b, hb, hp, -⟩
    rw [State.region_leaseEnd, if_pos rfl] at hb
    exact Region.head_leaves (once n) hq hb hp
  · left
    rw [State.entry_leaseEnd, if_neg ended, if_neg granted]

theorem State.leaseEnd_references {s : State} {n : RegionId} {ex : Port} {rel : Option Slot}
    (h : ∀ k, rel = some k → s.Loose ex k ∨ s.Refers (.release n) ex k) :
    s.KeepsReferences (s.leaseEnd n ex rel) := by
  refine .of_region (s.leaseEnd_work n ex rel).seqs (fun m => s.region_leaseEnd n m ex rel)
    (Region.inherits_leaseOver _ _) fun once q j => ?_
  obtain same | ⟨rfl, hj⟩ | claim := State.leaseEnd_settles n ex rel once q j
  · exact .inl same
  · refine .inr ((h j hj).imp id fun hr => ⟨.release n, hr, ?_⟩)
    rintro ⟨-, hn⟩
    rw [State.region_leaseEnd, if_pos rfl, Region.release_leaseOver] at hn
    cases hn
  · exact .inr (.inr ⟨_, claim⟩)

/-- What a lost lease tells the holder's requests (R42): queued writes and ranges, and the RELEASE that waits. -/
theorem State.leaseLost_settles (s : State) (n : RegionId) (p q : Port) (j : Slot) :
    (s.leaseLost n p).entry q j = s.entry q j ∨ s.Loose q j ∨ (q = p ∧ (s.region n).release = some j) := by
  by_cases hr : q = p ∧ (s.region n).release = some j
  · exact .inr (.inr hr)
  by_cases hw : (s.entry q j).queuedWriteOn n = true
  · exact .inr (.inl (State.loose_of_state (by rw [Entry.queuedWriteOn_state hw]; decide)))
  by_cases ha : (s.entry q j).activeRangeOn n = true
  · exact .inr (.inl (State.loose_of_state (by rw [Entry.activeRangeOn_state ha]; decide)))
  exact .inl (State.entry_leaseLost_of_other (Bool.not_eq_true _ ▸ hw) hr (Bool.not_eq_true _ ▸ ha))

/-- The claims that name entries are those of the region's record. -/
theorem State.refers_claim_congr {s t : State} {n : RegionId} (h : t.region n = s.region n) (q : Port) (j : Slot) :
    t.Refers (.claim n) q j ↔ s.Refers (.claim n) q j := by
  change (∃ c ∈ (t.region n).queue, _) ↔ ∃ c ∈ (s.region n).queue, _
  rw [h]

/-- The loss of a lease in two parts (R42): `u` has told the holder's requests, `t` has ended the lease. -/
theorem State.KeepsReferences.of_told {s u t : State} {n : RegionId} {p : Port} {r : Region}
    (hp : (s.region n).holder = some p)
    (told : ∀ q j, u.entry q j = s.entry q j ∨ s.Loose q j ∨ (q = p ∧ (s.region n).release = some j))
    (seqs : t.seqs = s.seqs) (regions : ∀ m, t.region m = if m = n then r else s.region m)
    (inherits : (s.region n).Inherits r) (unreleased : r.release = none)
    (ended : (∀ m, ((s.region m).queue.map ClaimRecord.port).Nodup) → ∀ q j,
      t.entry q j = u.entry q j ∨ s.Refers (.claim n) q j ∧ ¬ t.Refers (.claim n) q j) : s.KeepsReferences t := by
  refine .of_region seqs regions inherits fun once q j => ?_
  obtain same | claim := ended once q j
  · rw [same]
    refine (told q j).imp id (Or.imp id ?_)
    rintro ⟨rfl, hj⟩
    refine ⟨.release n, ⟨hp, hj⟩, fun ⟨_, hn⟩ => ?_⟩
    rw [regions, if_pos rfl, unreleased] at hn
    cases hn
  · exact .inr (.inr ⟨_, claim⟩)

theorem State.leaseLoss_references {s : State} {n : RegionId} {p : Port} (hp : (s.region n).holder = some p)
    (b : Bool) : s.KeepsReferences (s.leaseLoss n p b) := by
  obtain ⟨u, hu⟩ : ∃ u, u = if b then s else s.leaseLost n p := ⟨_, rfl⟩
  have told : ∀ q j, u.entry q j = s.entry q j ∨ s.Loose q j ∨ (q = p ∧ (s.region n).release = some j) := by
    subst hu
    cases b
    · exact s.leaseLost_settles n p
    · exact fun _ _ => .inl rfl
  have work : s.TableWork u := by
    subst hu
    cases b
    · exact s.leaseLost_work n p
    · exact .refl s
  have region : ∀ m, u.region m = s.region m := by
    subst hu
    cases b
    · exact fun m => s.region_leaseLost n m p
    · exact fun _ => rfl
  unfold State.leaseLoss
  rw [← hu]
  dsimp only
  split
  · refine .of_told hp told work.seqs (fun m => ?_) (r := { (s.region n).leaseEnded with state := .closing })
      (Region.inherits_closing _) rfl fun _ _ _ => .inl rfl
    rw [State.region_setRegion, region, region]
  · refine .of_told hp told (work.trans (u.leaseEnd_work n p none)).seqs (fun m => ?_)
      (r := (s.region n).leaseOver u.settings) (Region.inherits_leaseOver _ _) (Region.release_leaseOver _ _)
      fun once q j => ?_
    · rw [State.region_leaseEnd, region, region]
    · obtain same | ⟨-, absent⟩ | ⟨was, gone⟩ := State.leaseEnd_settles (s := u) n p none
        (fun m => by rw [region]; exact once m) q j
      · exact .inl same
      · cases absent
      · exact .inr ⟨(State.refers_claim_congr (region n) q j).mp was, gone⟩

theorem State.freeRegion_references (s : State) (n : RegionId) : s.KeepsReferences (s.freeRegion n) := by
  refine .of_region (s.freeRegion_work n).seqs (fun m => s.region_freeRegion n m) (Region.inherits_free _)
    fun _ q j => ?_
  rw [State.entry_freeRegion]
  split
  · rename_i h
    refine .inr (.inr ⟨.retire n, h, fun hn => ?_⟩)
    unfold State.Refers at hn
    dsimp only at hn
    rw [State.region_freeRegion, if_pos rfl] at hn
    cases hn
  · exact .inl rfl

theorem State.dropClaim_references (s : State) (n : RegionId) (p : Port) (r : Result) :
    s.KeepsReferences (s.dropClaim n p r) := by
  refine .of_region (s.dropClaim_work n p r).seqs (fun m => s.region_dropClaim n m p r)
    (Region.inherits_withoutClaim _ p) fun _ q j => ?_
  rw [State.entry_dropClaim]
  split
  · rename_i h
    obtain ⟨rfl, hj⟩ := h
    obtain ⟨c, hc, hs⟩ := Option.map_eq_some_iff.mp hj
    refine .inr (.inr ⟨.claim n, ⟨c, List.mem_of_find?_eq_some hc, Region.claimOf_port hc, hs⟩, ?_⟩)
    rintro ⟨b, hb, hp, -⟩
    rw [State.region_dropClaim, if_pos rfl] at hb
    have := (List.mem_filter.mp hb).2
    simp [hp] at this
  · exact .inl rfl

theorem State.leaveRelease_references (s : State) (p : Port) (k : Slot) (n : RegionId) :
    s.KeepsReferences (s.leaveRelease p k n) := by
  unfold State.leaveRelease
  split
  · rename_i h
    simp only [Bool.and_eq_true, beq_iff_eq] at h
    obtain ⟨⟨-, holder⟩, -⟩ := h
    split
    · exact State.leaseEnd_references fun k hk => .inr ⟨holder, hk⟩
    · exact State.setRegion_references (.of_same rfl rfl rfl rfl)
  · exact .refl s

theorem State.operationEnded_references (s : State) (p : Port) (k : Slot) (n : RegionId) (w : Bool) :
    s.KeepsReferences (s.operationEnded p k n w) := by
  unfold State.operationEnded
  refine (s.leaveRelease_references p k n).trans ?_
  generalize s.leaveRelease p k n = t
  dsimp only
  split
  · split
    · exact State.leaseEnd_references fun _ h => nomatch h
    · exact .refl t
  · split
    · exact .refl t
    · exact t.freeRegion_references n
  all_goals exact .refl t

theorem State.entryGone_references (s : State) (p : Port) (k : Slot) (e : Entry) :
    s.KeepsReferences (s.entryGone p k e) := by
  unfold State.entryGone
  split
  · exact .refl s
  · split
    · exact s.operationEnded_references p k _ _
    · exact s.leaveRelease_references p k _

theorem State.reportEnds_references (s : State) (gone : List (EntryRef × Entry)) :
    s.KeepsReferences (s.reportEnds gone) := by
  refine State.regroup_references ?_
  refine foldl_keeps State.KeepsReferences .refl .trans _ _ (fun s n _ => ?_) s
  refine foldl_keeps State.KeepsReferences .refl .trans _ _ (fun s x _ => ?_) s
  split
  · exact s.entryGone_references _ _ _
  · exact .refl s

theorem State.leaseExpiry_references (s : State) (n : RegionId) : s.KeepsReferences (s.leaseExpiry n) := by
  unfold State.leaseExpiry
  split
  · exact .refl s
  · rename_i p hp
    exact State.leaseLoss_references hp false

theorem State.endLease_references (s : State) (p : Port) (n : RegionId) : s.KeepsReferences (s.endLease p n) := by
  unfold State.endLease
  split
  · rename_i h
    exact State.leaseLoss_references (beq_iff_eq.mp h) true
  · exact .refl s

theorem State.endLeases_references (s : State) (p : Port) : s.KeepsReferences (s.endLeases p) :=
  foldl_keeps State.KeepsReferences .refl .trans _ _ (fun s n _ => s.endLease_references p n) s

theorem State.dropRightless_references (s : State) (n : RegionId) (wr : PortSet) :
    s.KeepsReferences (s.dropRightless n wr) := by
  refine foldl_keeps State.KeepsReferences .refl .trans _ _ (fun s q _ => ?_) s
  split
  · exact .refl s
  · exact s.dropClaim_references n q _

theorem State.revoked_references (s : State) (n : RegionId) (wr : PortSet) : s.KeepsReferences (s.revoked n wr) := by
  unfold State.revoked
  split
  · exact .refl s
  · rename_i q hq
    split
    · exact .refl s
    · exact State.leaseLoss_references hq false

theorem State.pruneRights_references (s : State) (n : RegionId) (wr : PortSet) :
    s.KeepsReferences (s.pruneRights n wr) :=
  (s.dropRightless_references n wr).trans (State.revoked_references _ n wr)

/-- The retirement of a region (R21): the region no longer names the RELEASE and the claims that it answers. -/
theorem State.retireAction_references (s : State) (n : RegionId) : s.KeepsReferences (s.retireAction n) := by
  have region : (s.retireAction n).region n = (s.region n).retired := by rw [State.region_retireAction, if_pos rfl]
  refine .of_region (s.retireAction_work n).seqs (fun m => s.region_retireAction n m) (Region.inherits_retired _)
    fun _ q j => ?_
  rw [State.entry_retireAction, State.entry_retireWork]
  by_cases hm : j ∈ s.retiredSlots q n
  · right
    obtain ⟨-, hs, -⟩ | release | claim := State.mem_retiredSlots.mp hm
    · exact .inl (State.loose_of_state (by rw [hs]; decide))
    · refine .inr ⟨.release n, release, fun ⟨_, hn⟩ => ?_⟩
      rw [region] at hn
      cases hn
    · refine .inr ⟨.claim n, claim, fun ⟨c, hc, _⟩ => ?_⟩
      rw [region] at hc
      cases hc
  · rw [State.retiredEntry_not_mem hm]
    split
    · rename_i h
      exact .inr (.inl (State.loose_of_state (by rw [Entry.activeRangeOn_state h.2]; decide)))
    · exact .inl rfl

theorem State.region_msTick_inherits (s : State) (n : RegionId) : (s.region n).Inherits (s.msTick.region n) := by
  rw [State.region_msTick]
  exact Region.inherits_msTick _

theorem State.msTick_references (s : State) : s.KeepsReferences s.msTick :=
  .of_settled s.region_msTick_inherits (fun _ _ h => h) fun _ _ _ => .inl rfl

end Sys2Proof.Machine
end

section
/-! Right references (R143) under the bus, the Device Sequencers and every event inside the part. -/

namespace Sys2Proof.Machine

/-- What stands in the line of a device does not wait (R80). -/
theorem State.loose_of_inLine {s : State} {q : Port} {j : Slot} (h : (s.entry q j).state.inLine = true) :
    s.Loose q j := State.loose_of_state fun hs => by rw [hs] at h; cases h

/-! ### The bus -/

/-- A sequencer record with the waiting request that it had. -/
theorem State.setSeq_references (s : State) (d : Dev) (q : Sequencer)
    (h : q.waitingRequest = (s.seq d).waitingRequest := by rfl) : s.KeepsReferences (s.setSeq d q) := by
  refine .of_settled (fun n => .refl _) (fun e r hr => ?_) fun _ _ _ => .inl rfl
  rw [State.seq_setSeq] at hr
  split at hr
  · rename_i he; rw [he, ← h]; exact hr
  · exact hr

theorem State.setBus_references (s : State) (b : Bus) : s.KeepsReferences (s.setBus b) := .of_same rfl rfl rfl

theorem State.grantBus_references (s : State) (d : Dev) (t : Transaction) : s.KeepsReferences (s.grantBus d t) :=
  (s.setSeq_references d { s.seq d with busRequest := none }).trans (State.setBus_references _ _)

theorem State.place_references (s : State) (d : Dev) (t : Transaction) : s.KeepsReferences (s.place d t) := by
  unfold State.place
  split
  · exact s.grantBus_references d t
  · exact s.setSeq_references d _

theorem State.grantNext_references (s : State) : s.KeepsReferences s.grantNext := by
  unfold State.grantNext
  split
  · exact .refl s
  · dsimp only
    split
    · exact s.grantBus_references _ _
    · split
      · exact s.grantBus_references _ _
      · exact .refl s

theorem State.abandonBus_references (s : State) (d : Dev) : s.KeepsReferences (s.abandonBus d) := by
  rw [State.abandonBus_eq]
  exact (s.setSeq_references d _).trans (State.setBus_references _ _)

theorem State.endTransaction_references (s : State) (effect : State → State)
    (h : ∀ t : State, t.KeepsReferences (effect t)) : s.KeepsReferences (s.endTransaction effect) := by
  unfold State.endTransaction
  split
  · exact .refl s
  · refine State.KeepsReferences.trans ?_ (State.grantNext_references _)
    split
    · exact (s.setBus_references _).trans (h _)
    · exact s.setBus_references _

theorem State.endReading_references (s : State) (bytes : List Byte) (effect : List Byte → State → State)
    (h : ∀ (b : List Byte) (t : State), t.KeepsReferences (effect b t)) :
    s.KeepsReferences (s.endReading bytes effect) := by
  unfold State.endReading
  split
  · exact .refl s
  · exact s.endTransaction_references _ (h _)

theorem State.endStatus_references (s : State) (status : Byte) (effect : Byte → State → State)
    (h : ∀ (b : Byte) (t : State), t.KeepsReferences (effect b t)) : s.KeepsReferences (s.endStatus status effect) :=
  s.endReading_references _ _ fun b t => h (b.headD 0#8) t

/-- An event of the current operation acts on an entry in the line of its device. -/
theorem State.onCurrent_references (s : State) (d : Dev) (effect : EntryRef → State)
    (h : ∀ r, (s.entry r.port r.slot).state.inLine = true → s.KeepsReferences (effect r)) :
    s.KeepsReferences (s.onCurrent d effect) := by
  unfold State.onCurrent
  split
  · exact .refl s
  · split
    · rename_i g; exact h _ (EntryState.inLine_of_running g)
    · exact .refl s

/-! ### Selections and starts -/

theorem State.started_references (s : State) (p : Port) (k : Slot) (h : (s.entry p k).state.inLine = true) :
    s.KeepsReferences (s.setEntry p k (s.entry p k).started) :=
  State.setEntry_references (State.loose_of_inLine h) _

theorem State.stepBegun_references (s : State) (region : Option RegionId) : s.KeepsReferences (s.stepBegun region) := by
  cases region with
  | none => exact .refl s
  | some n => exact State.setRegion_references (.of_same rfl rfl rfl rfl)

theorem State.startRead_references (s : State) (d : Dev) (r : EntryRef) (i : DevState)
    (h : (s.entry r.port r.slot).state.inLine = true) : s.KeepsReferences (s.startRead d r i) :=
  ((s.started_references r.port r.slot h).trans (State.setSeq_references _ d _)).trans (State.place_references _ d _)

theorem State.startProgram_references (s : State) (d : Dev) (r : EntryRef)
    (h : (s.entry r.port r.slot).state.inLine = true) : s.KeepsReferences (s.startProgram d r) :=
  (((s.started_references r.port r.slot h).trans (State.stepBegun_references _ _)).trans
    (State.setSeq_references _ d _)).trans (State.place_references _ d _)

theorem State.startSectorStep_references (s : State) (d : Dev) (r : EntryRef)
    (h : (s.entry r.port r.slot).state.inLine = true) : s.KeepsReferences (s.startSectorStep d r) :=
  (((s.started_references r.port r.slot h).trans (State.stepBegun_references _ _)).trans
    (State.setSeq_references _ d _)).trans (State.place_references _ d _)

theorem State.endStopped_references (d : Dev) (fuel : Nat) (s : State) :
    s.KeepsReferences (State.endStopped d fuel s).1 := by
  induction fuel generalizing s with
  | zero => exact .refl s
  | succ fuel ih =>
    unfold State.endStopped
    split
    · exact .refl s
    · rename_i r hr
      have line : ((s.setSeq d { s.seq d with lastServed := r.port }).entry r.port r.slot).state.inLine = true :=
        State.pick_inLine (s := s) hr
      dsimp only
      split
      · exact ((s.setSeq_references d _).trans
          (State.endEntry_references (State.loose_of_inLine line) _ _ _)).trans (ih _)
      · exact .refl s

theorem State.startNext_references (s : State) (d : Dev) : s.KeepsReferences (s.startNext d) := by
  unfold State.startNext
  split
  · exact .refl s
  · rename_i r hr
    have line : ((s.setSeq d { s.seq d with lastServed := r.port }).entry r.port r.slot).state.inLine = true :=
      State.pick_inLine (s := s) hr
    refine (s.setSeq_references d { s.seq d with lastServed := r.port }).trans ?_
    dsimp only
    generalize s.setSeq d { s.seq d with lastServed := r.port } = t at line ⊢
    split
    · exact t.startRead_references d r _ line
    · split
      · exact t.startProgram_references d r line
      · exact t.startSectorStep_references d r line

theorem State.endAndSelect_references (s : State) (d : Dev) (own : State → State) (gone : List (EntryRef × Entry))
    (h : s.KeepsReferences (own s)) : s.KeepsReferences (s.endAndSelect d own gone) :=
  ((State.regroup_references (h.trans (State.endStopped_references d 25 _))).trans
    (State.reportEnds_references _ _)).trans (State.startNext_references _ d)

theorem State.selectIdle_references (s : State) (d : Dev) : s.KeepsReferences (s.selectIdle d) :=
  s.endAndSelect_references d id [] (.refl s)

/-! ### Ends of steps and operations -/

theorem State.endOperation_references (s : State) (d : Dev) (r : EntryRef) (x : Result) (v : Values)
    (b : Option (List Byte)) (h : (s.entry r.port r.slot).state.inLine = true) :
    s.KeepsReferences (s.endOperation d r x v b) :=
  s.endAndSelect_references d _ _ ((s.setSeq_references d _).trans
    (State.endEntry_references (State.loose_of_inLine (s := s.setSeq d _) h) _ _ _))

theorem State.sectorStepCompleted_references (s : State) (d : Dev) (r : EntryRef)
    (h : (s.entry r.port r.slot).state.inLine = true) : s.KeepsReferences (s.sectorStepCompleted d r) := by
  unfold State.sectorStepCompleted
  refine (State.setEntry_references (State.loose_of_inLine h)
    { s.entry r.port r.slot with progress := (s.entry r.port r.slot).progress + 1 }).trans ?_
  dsimp only
  split
  · exact (State.setSeq_references _ d _).trans (State.selectIdle_references _ d)
  · exact State.endOperation_references _ d r _ _ _ (by rw [State.entry_setEntry_same]; exact h)

theorem State.pollingEnded_references (s : State) (d : Dev) (r : EntryRef) (status : Byte)
    (h : (s.entry r.port r.slot).state.inLine = true) : s.KeepsReferences (s.pollingEnded d r status) := by
  unfold State.pollingEnded
  dsimp only
  split
  · split
    · exact (s.setSeq_references d _).trans (State.place_references _ d _)
    · exact s.endOperation_references d r _ _ _ h
  · split
    · split
      · exact (s.setSeq_references d _).trans (State.place_references _ d _)
      · exact s.endOperation_references d r _ _ _ h
    · exact s.sectorStepCompleted_references d r h

theorem State.issueStep_references (s : State) (d : Dev) (r : EntryRef) : s.KeepsReferences (s.issueStep d r) := by
  unfold State.issueStep
  dsimp only
  split <;> exact s.place_references d _

/-! ### Suspension -/

theorem State.resume_references (s : State) (d : Dev) (range : EntryRef) : s.KeepsReferences (s.resume d range) := by
  unfold State.resume
  dsimp only
  split
  · exact s.setSeq_references d _
  · exact (s.setSeq_references d _).trans (State.place_references _ d _)

theorem State.selectSuspended_references (s : State) (d : Dev) (range : EntryRef) :
    s.KeepsReferences (s.selectSuspended d range) := by
  unfold State.selectSuspended
  dsimp only
  split
  · exact s.resume_references d range
  · split
    · exact s.resume_references d range
    · rename_i r hr
      have line := State.pick_inLine hr
      exact (s.setSeq_references d _).trans (State.startRead_references _ d r _ line)

theorem State.enterSuspended_references (s : State) (d : Dev) (range : EntryRef) :
    s.KeepsReferences (s.enterSuspended d range) :=
  (s.setSeq_references d _).trans (State.selectSuspended_references _ d range)

/-! ### Entries ended by their device -/

theorem Entry.ended_not_waiting {e : Entry} (h : e.state ≠ .waiting) (x : Result) : (e.ended x).state ≠ .waiting := by
  unfold Entry.ended Entry.answered
  split
  · decide
  · split
    · exact nofun
    · exact h

/-- Entries that do not wait end one after another. -/
theorem State.foldl_endEntry_references (l : List (EntryRef × Result)) {s : State}
    (h : ∀ x ∈ l, (s.entry x.1.port x.1.slot).state ≠ .waiting) :
    s.KeepsReferences (l.foldl (fun s x => s.endEntry x.1.port x.1.slot x.2) s) := by
  induction l generalizing s with
  | nil => exact .refl s
  | cons x l ih =>
    refine (State.endEntry_references (State.loose_of_state (h x (List.mem_cons_self ..))) _ _ _).trans
      (ih fun y hy => ?_)
    by_cases same : (y.1.port, y.1.slot) = (x.1.port, x.1.slot)
    · obtain ⟨hp, hk⟩ := Prod.mk.inj same
      rw [hp, hk, State.entry_endEntry_same]
      exact Entry.ended_not_waiting (h x (List.mem_cons_self ..)) _
    · rw [State.entry_endEntry_of_other same]
      exact h y (List.mem_cons_of_mem _ hy)

theorem State.endEntries_references {s : State} {l : List (EntryRef × Result)}
    (h : ∀ x ∈ l, (s.entry x.1.port x.1.slot).state.inLine = true) : s.KeepsReferences (s.endEntries l) :=
  (State.regroup_references (State.foldl_endEntry_references l fun x hx hs => by
    have := h x hx
    rw [hs] at this
    cases this)).trans (State.reportEnds_references _ _)

theorem State.inLine_of_lineEntries {s : State} {d : Dev} {test : Entry → Bool} {result : Port → Slot → Result}
    {x : EntryRef × Result} (h : x ∈ s.lineEntries d test result) :
    (s.entry x.1.port x.1.slot).state.inLine = true :=
  have ⟨⟨_, line, _⟩, _⟩ := State.mem_lineEntries.mp h
  line

theorem State.enterFaulted_references (s : State) (d : Dev) : s.KeepsReferences (s.enterFaulted d) := by
  have begun : s.KeepsReferences ((s.setSeq d (s.seq d).faulted).abandonBus d) :=
    (s.setSeq_references d _).trans (State.abandonBus_references _ d)
  refine begun.trans (State.endEntries_references fun x hx => ?_)
  have line := State.inLine_of_lineEntries hx
  rw [State.abandonBus_eq]
  exact line

theorem State.endQueued_references (s : State) (d : Dev) (x : Result) : s.KeepsReferences (s.endQueued d x) :=
  State.endEntries_references fun _ h => State.inLine_of_lineEntries h

/-- The waiting SET_PROFILE or RECOVER of a device is answered as the record ceases to name it (R143). -/
theorem State.answerWaiting_references (s : State) (d : Dev) (x : Result) (v : Values) :
    s.KeepsReferences (s.answerWaiting d x v) := by
  have other : ∀ e, e ≠ d → (s.answerWaiting d x v).seq e = s.seq e := fun e he => by
    cases h : (s.seq d).waitingRequest with
    | none => rw [State.answerWaiting_none h]
    | some r =>
      rw [State.answerWaiting_some h]
      exact (s.seq_setSeq d e _).trans (if_neg he)
  refine .of_settled (fun n => State.region_of_regions (s.regions_answerWaiting d x v) n ▸ .refl _)
    (fun e r h => ?_) fun _ q j => ?_
  · by_cases he : e = d
    · rw [he, State.seq_answerWaiting] at h; cases h
    · rw [other e he] at h; exact h
  · rw [State.entry_answerWaiting]
    split
    · rename_i h
      refine .inr (.inr ⟨.device d, h, fun hn => ?_⟩)
      unfold State.Refers at hn
      dsimp only at hn
      rw [State.seq_answerWaiting] at hn
      cases hn
    · exact .inl rfl

/-! ### Probes and recoveries -/

theorem State.probeEnd_references (s : State) (d : Dev) (id : DeviceId) : s.KeepsReferences (s.probeEnd d id) := by
  unfold State.probeEnd
  split
  · exact ((s.setSeq_references d _).trans (State.answerWaiting_references _ d _ _)).trans
      (State.selectIdle_references _ d)
  · exact ((s.setSeq_references d _).trans (State.answerWaiting_references _ d _ _)).trans
      (State.endQueued_references _ d _)

theorem State.nextReset_references (s : State) (d : Dev) : s.KeepsReferences (s.nextReset d) := by
  unfold State.nextReset
  dsimp only
  split
  · exact (s.setSeq_references d _).trans (State.place_references _ d _)
  · exact s.setSeq_references d _

theorem State.recoveryStatus_references (s : State) (d : Dev) (b : Byte) :
    s.KeepsReferences (s.recoveryStatus d b) := by
  unfold State.recoveryStatus
  split
  · exact s.setSeq_references d _
  · exact (s.setSeq_references d _).trans (State.place_references _ d _)

theorem State.recoveryFailed_references (s : State) (d : Dev) : s.KeepsReferences (s.recoveryFailed d) :=
  (((s.setSeq_references d _).trans (State.abandonBus_references _ d)).trans
    (State.answerWaiting_references _ d _ _)).trans (State.endQueued_references _ d _)

/-! ### The events of the current operation -/

theorem State.readEnded_references (s : State) (d : Dev) (r : EntryRef) (bytes : List Byte)
    (h : (s.entry r.port r.slot).state.inLine = true) : s.KeepsReferences (s.readEnded d r bytes) := by
  unfold State.readEnded
  dsimp only
  split
  · exact s.endOperation_references d r _ _ _ h
  · exact (((s.setSeq_references d _).trans
      (State.endEntry_references (State.loose_of_inLine (s := s.setSeq d _) h) _ _ _)).trans
      (State.reportEnds_references _ _)).trans (State.selectSuspended_references _ d _)

theorem State.latchChecked_references (s : State) (d : Dev) (r : EntryRef) (b : Byte)
    (h : (s.entry r.port r.slot).state.inLine = true) : s.KeepsReferences (s.latchChecked d r b) := by
  unfold State.latchChecked
  split
  · exact s.issueStep_references d r
  · split
    · exact (s.setSeq_references d _).trans (State.place_references _ d _)
    · exact s.endOperation_references d r _ _ _ h

theorem State.pollTurn_references (s : State) (d : Dev) (r : EntryRef) : s.KeepsReferences (s.pollTurn d r) := by
  unfold State.pollTurn
  dsimp only
  split <;> exact (s.setSeq_references d _).trans (State.place_references _ d _)

theorem State.polled_references (s : State) (d : Dev) (r : EntryRef) (b : Byte)
    (h : (s.entry r.port r.slot).state.inLine = true) : s.KeepsReferences (s.polled d r b) := by
  unfold State.polled
  dsimp only
  split
  · exact s.setSeq_references d _
  · exact (s.setSeq_references d _).trans (State.pollingEnded_references _ d r b h)

theorem State.verified_references (s : State) (d : Dev) (r : EntryRef) (back : List Byte)
    (h : (s.entry r.port r.slot).state.inLine = true) : s.KeepsReferences (s.verified d r back) := by
  unfold State.verified
  dsimp only
  split <;> exact s.endOperation_references d r _ _ _ h

theorem State.watchStatus_references (s : State) (d : Dev) (use : BusUse) :
    s.KeepsReferences (s.watchStatus d use) :=
  (s.setSeq_references d _).trans (State.place_references _ d _)

theorem State.endedInSuspension_references (s : State) (d : Dev) (r : EntryRef) (b : Byte)
    (h : (s.entry r.port r.slot).state.inLine = true) : s.KeepsReferences (s.endedInSuspension d r b) :=
  (s.setSeq_references d _).trans (State.pollingEnded_references _ d r b h)

theorem State.suspendingStatus_references (s : State) (d : Dev) (r : EntryRef) (b : Byte)
    (h : (s.entry r.port r.slot).state.inLine = true) : s.KeepsReferences (s.suspendingStatus d r b) := by
  unfold State.suspendingStatus
  split
  · exact s.place_references d _
  · split
    · exact s.enterSuspended_references d r
    · exact s.endedInSuspension_references d r b h

theorem State.resumingStatus_references (s : State) (d : Dev) (r : EntryRef) (b : Byte)
    (h : (s.entry r.port r.slot).state.inLine = true) : s.KeepsReferences (s.resumingStatus d r b) := by
  unfold State.resumingStatus
  split
  · exact s.place_references d _
  · split
    · exact s.setSeq_references d _
    · exact s.endedInSuspension_references d r b h

/-! ### Every event inside the part -/

theorem State.usTick_references (s : State) : s.KeepsReferences s.usTick :=
  .of_settled (fun _ => .refl _) (fun d r h => by rw [State.seq_usTick] at h; exact h) fun _ _ _ => .inl rfl

theorem whenDue_references {due : Bool} {effect : State → State} {s t : State} (h : s.KeepsReferences (effect s))
    (e : whenDue due effect s = .next t) : s.KeepsReferences t := by
  unfold whenDue at e
  cases e
  split
  · exact h
  · exact .refl s

/-- Every event inside the part keeps right references right. -/
theorem exec_references_of_inner {c : Instr} (hc : isInner c = true) {s t : State} (e : exec c s = .next t) :
    s.KeepsReferences t := by
  cases c
  all_goals first | (cases hc; done) | simp only [exec] at e
  case msTick => exact whenDue_references s.msTick_references e
  case usTick => exact whenDue_references s.usTick_references e
  case leaseExpiry n => exact whenDue_references (s.leaseExpiry_references n) e
  case waitExpiry n p => exact whenDue_references (s.dropClaim_references n p _) e
  case readDataEnd d bytes =>
    exact whenDue_references (s.endReading_references _ _ fun b t =>
      t.onCurrent_references d _ fun r h => t.readEnded_references d r b h) e
  case writeEnableEnd d =>
    refine whenDue_references (s.endTransaction_references _ fun t => t.onCurrent_references d _ fun r _ => ?_) e
    split
    · exact t.place_references d _
    · exact t.issueStep_references d r
  case latchStatusEnd d b =>
    exact whenDue_references (s.endStatus_references _ _ fun b t =>
      t.onCurrent_references d _ fun r h => t.latchChecked_references d r b h) e
  case pageProgramEnd d =>
    exact whenDue_references (s.endTransaction_references _ fun t => t.setSeq_references d _) e
  case sectorEraseEnd d =>
    exact whenDue_references (s.endTransaction_references _ fun t => t.setSeq_references d _) e
  case pollTurn d => exact whenDue_references (s.onCurrent_references d _ fun r _ => s.pollTurn_references d r) e
  case pollStatusEnd d b =>
    exact whenDue_references (s.endStatus_references _ _ fun b t =>
      t.onCurrent_references d _ fun r h => t.polled_references d r b h) e
  case clearStatusEnd d =>
    exact whenDue_references (s.endTransaction_references _ fun t =>
      t.onCurrent_references d _ fun r h => t.endOperation_references d r _ _ _ h) e
  case verifyReadEnd d bytes =>
    exact whenDue_references (s.endReading_references _ _ fun b t =>
      t.onCurrent_references d _ fun r h => t.verified_references d r b h) e
  case stepTimerExpiry d => exact whenDue_references (s.enterFaulted_references d) e
  case dwellTimerExpiry d => exact whenDue_references (s.setSeq_references d _) e
  case suspendEnd d =>
    exact whenDue_references (s.endTransaction_references _ fun t => t.watchStatus_references d _) e
  case suspendingStatusEnd d b =>
    exact whenDue_references (s.endStatus_references _ _ fun b t =>
      t.onCurrent_references d _ fun r h => t.suspendingStatus_references d r b h) e
  case suspendTimerExpiry d => exact whenDue_references (s.enterFaulted_references d) e
  case resumeEnd d =>
    exact whenDue_references (s.endTransaction_references _ fun t => t.watchStatus_references d _) e
  case resumingStatusEnd d b =>
    exact whenDue_references (s.endStatus_references _ _ fun b t =>
      t.onCurrent_references d _ fun r h => t.resumingStatus_references d r b h) e
  case resetTransactionEnd d =>
    exact whenDue_references (s.endTransaction_references _ fun t =>
      (t.setSeq_references d _).trans (State.nextReset_references _ d)) e
  case recoveryDelayExpiry d =>
    exact whenDue_references ((s.setSeq_references d _).trans (State.place_references _ d _)) e
  case recoveryPollTurn d =>
    exact whenDue_references ((s.setSeq_references d _).trans (State.place_references _ d _)) e
  case recoveryStatusEnd d b =>
    exact whenDue_references (s.endStatus_references _ _ fun b t => t.recoveryStatus_references d b) e
  case recoveryTimerExpiry d => exact whenDue_references (s.recoveryFailed_references d) e
  case idReadEnd d b0 b1 b2 =>
    exact whenDue_references (s.endReading_references _ _ fun b t => t.probeEnd_references d _) e

end Sys2Proof.Machine
end

section
/-! Right references (R143) under the requests: a request that waits is named by what it waits for, and every other action
of a kind names nothing anew. -/

namespace Sys2Proof.Machine

/-! ### What the checks find -/

theorem State.named_of_claimCheck {s : State} {p : Port} {b : Byte} {n : RegionId} (h : s.claimCheck p b = .ok n) :
    s.named b = some n := by
  unfold State.claimCheck at h
  split at h
  · cases h
  · rename_i m hm
    have last : ∀ {c : Prop} [Decidable c] {r : Result} {y : Except Result RegionId},
        (if c then .error r else y) = .ok n → y = .ok n := by
      intro c _ r y hy
      by_cases hc : c
      · rw [if_pos hc] at hy; cases hy
      · rw [if_neg hc] at hy; exact hy
    cases last (last (last (last (last h))))
    exact hm

theorem State.named_of_heldLease {s : State} {p : Port} {b : Byte} {n : RegionId} (h : s.heldLease p b = .ok n) :
    s.named b = some n := by
  unfold State.heldLease at h
  split at h
  · cases h
  · rename_i hm
    split at h
    · cases h; exact hm
    · cases h

theorem State.named_of_retireCheck {s : State} {p : Port} {b : Byte} {n : RegionId} (h : s.retireCheck p b = .ok n) :
    s.named b = some n := by
  unfold State.retireCheck State.inService at h
  split at h
  · cases h
  · split at h
    · cases h
    · rename_i hm
      split at h
      · cases h
      · cases h; exact hm

theorem State.devOf_of_recoverCheck {s : State} {p : Port} {b : Byte} {d : Dev} (h : s.recoverCheck p b = .ok d) :
    devOf b = some d := by
  unfold State.recoverCheck at h
  split at h
  · cases h
  · split at h
    · cases h
    · rename_i hd
      split at h
      · cases h
      · cases h; exact hd

/-! ### The entry of a request -/

/-- The entry in slot k of port p has just been taken for the request: nothing names it, and it waits with the request's
kind, region and device (R139). -/
structure State.Takes (s : State) (p : Port) (k : Slot) (q : Request) : Prop where
  unreferred : s.Unreferred p k
  waiting    : (s.entry p k).state = .waiting
  kind       : (s.entry p k).kind = some q.code
  region     : (s.entry p k).region = regionField q
  device     : (s.entry p k).device = s.deviceField q

/-- Taking a VACANT slot (R139). -/
theorem State.Admits.references {s : State} {p : Port} {tag : Byte} {q : Request} {k : Slot}
    (a : s.Admits p tag q k) : s.KeepsReferences (s.admitted p tag q k) := by
  refine .of_entries rfl rfl fun r j => ?_
  by_cases h : r = p ∧ j = k
  · obtain ⟨rfl, rfl⟩ := h
    exact .inr (State.loose_of_state (by rw [a.vacant_entry]; decide))
  · left
    rw [State.entry_admitted, if_neg h]

theorem State.Admits.takes {s : State} {p : Port} {tag : Byte} {q : Request} {k : Slot} (a : s.Admits p tag q k)
    (r : s.RefersRight none) : (s.admitted p tag q k).Takes p k q := by
  have own := s.entry_admitted_same p tag q k
  exact
    { unreferred := a.references.unreferred (r.unreferred (by rw [a.vacant_entry]; decide))
      waiting := by rw [own]
      kind := by rw [own]
      region := by rw [own]
      device := by rw [own]; rfl }

/-! ### New references -/

/-- A region record that names, beyond what it named, entries that fit. -/
theorem State.RefersRight.setRegion {s : State} (h : s.RefersRight none) {n : RegionId} {r : Region}
    (once : (r.queue.map ClaimRecord.port).Nodup) (held : ∀ k, r.release = some k → ∃ p, r.holder = some p)
    (claims : ∀ c ∈ r.queue, c ∈ (s.region n).queue ∨ (Reference.claim n).Fits (s.entry c.port c.slot))
    (release : ∀ q j, r.holder = some q → r.release = some j →
      s.Refers (.release n) q j ∨ (Reference.release n).Fits (s.entry q j))
    (retire : ∀ q j, r.pendingRetire = some ⟨q, j⟩ →
      s.Refers (.retire n) q j ∨ (Reference.retire n).Fits (s.entry q j)) : (s.setRegion n r).RefersRight none := by
  have other : ∀ {m}, m ≠ n → (s.setRegion n r).region m = s.region m := fun hm =>
    (s.region_setRegion n _ r).trans (if_neg hm)
  have named : ∀ x q j, (s.setRegion n r).Refers x q j → s.Refers x q j ∨ x.Fits (s.entry q j) := by
    intro x q j hx
    cases x with
    | claim m =>
      obtain ⟨c, hc, rfl, rfl⟩ := hx
      by_cases hm : m = n
      · subst hm
        rw [State.region_setRegion_same] at hc
        exact (claims c hc).imp (fun was => ⟨c, was, rfl, rfl⟩) id
      · rw [other hm] at hc
        exact .inl ⟨c, hc, rfl, rfl⟩
    | release m =>
      obtain ⟨hq, hj⟩ := hx
      by_cases hm : m = n
      · subst hm
        rw [State.region_setRegion_same] at hq hj
        exact release q j hq hj
      · rw [other hm] at hq hj
        exact .inl ⟨hq, hj⟩
    | retire m =>
      have hr : ((s.setRegion n r).region m).pendingRetire = some ⟨q, j⟩ := hx
      by_cases hm : m = n
      · subst hm
        rw [State.region_setRegion_same] at hr
        exact retire q j hr
      · rw [other hm] at hr
        exact .inl hr
    | device d => exact .inl hx
  refine ⟨fun m => ?_, fun m k => ?_, fun x q j hq hx => (named x q j hx).elim (h.fits x q j hq) id⟩
  · by_cases hm : m = n
    · rw [hm, State.region_setRegion_same]; exact once
    · rw [other hm]; exact h.once m
  · by_cases hm : m = n
    · rw [hm, State.region_setRegion_same]; exact held k
    · rw [other hm]; exact h.held m k

/-- A sequencer record that names an entry that fits. -/
theorem State.RefersRight.setSeq {s : State} (h : s.RefersRight none) {d : Dev} {r : Sequencer}
    (fits : ∀ q j, r.waitingRequest = some ⟨q, j⟩ → (Reference.device d).Fits (s.entry q j)) :
    (s.setSeq d r).RefersRight none := by
  refine ⟨h.once, h.held, fun x q j hq hx => ?_⟩
  cases x with
  | claim n => exact h.fits (.claim n) q j hq hx
  | release n => exact h.fits (.release n) q j hq hx
  | retire n => exact h.fits (.retire n) q j hq hx
  | device e =>
    have hr : ((s.setSeq d r).seq e).waitingRequest = some ⟨q, j⟩ := hx
    by_cases he : e = d
    · subst he
      rw [State.seq_setSeq_same] at hr
      exact fits q j hr
    · rw [State.seq_setSeq, if_neg he] at hr
      exact h.fits (.device e) q j hq hr

/-! ### The answers of requests -/

/-- The answer to a request that nothing names. -/
theorem State.Unreferred.answer {s t : State} {p : Port} {k : Slot} (own : s.Unreferred p k)
    (h : s.KeepsReferences t) (r : Result) (v : Values) (b : Option (List Byte)) :
    s.KeepsReferences (t.answer p k r v b) := h.trans (State.answer_references (h.unreferred own).loose r v b)

/-- A request's checks, whose refusal answers its entry. -/
theorem State.checked_references {α : Type} {s : State} {p : Port} {k : Slot} {check : Except Result α}
    {act : α → State} (own : s.Unreferred p k) (h : ∀ a, check = .ok a → s.KeepsReferences (act a)) :
    s.KeepsReferences (s.checked p k check act) := by
  cases hc : check with
  | error r => rw [State.checked_error rfl]; exact own.answer (.refl s) _ _ _
  | ok a => rw [State.checked_ok rfl]; exact h a hc

theorem State.checked_refersRight {α : Type} {s : State} {p : Port} {k : Slot} {check : Except Result α}
    {act : α → State} (r : s.RefersRight none) (own : s.Unreferred p k)
    (h : ∀ a, check = .ok a → (act a).RefersRight none) : (s.checked p k check act).RefersRight none := by
  cases hc : check with
  | error x => rw [State.checked_error rfl]; exact (own.answer (.refl s) _ _ _).right none r
  | ok a => rw [State.checked_ok rfl]; exact h a hc

/-- A region record with the references that it had. -/
theorem State.writeRegion_references (s : State) (n : RegionId) (r : Region)
    (queue : r.queue = (s.region n).queue := by rfl) (release : r.release = (s.region n).release := by rfl)
    (holder : r.holder = (s.region n).holder := by rfl)
    (retire : r.pendingRetire = (s.region n).pendingRetire := by rfl) : s.KeepsReferences (s.setRegion n r) :=
  State.setRegion_references (.of_same queue release holder retire)

/-! ### Leases (R29 to R39) -/

/-- A granted lease of an OPEN region, which has no holder and so no waiting RELEASE (R30). -/
theorem State.grant_references {s : State} {n : RegionId} {p : Port} {k : Slot} (own : s.Unreferred p k)
    (unreleased : (s.region n).release = none) (t : Nat) : s.KeepsReferences (s.grant n p k t) := by
  refine own.answer (State.setRegion_references ?_) _ _ _
  exact .unreleased (List.Sublist.refl _) unreleased rfl

theorem State.claim_refersRight {s : State} {p : Port} {k : Slot} {b : Byte} {n : RegionId} {term wait : Half}
    (r : s.RefersRight none) (form : (s.region n).WellFormed) (taken : s.Takes p k (.claim b term wait))
    (hn : s.claimCheck p b = .ok n) : (s.claimAccepted p k n term wait).RefersRight none := by
  obtain ⟨-, -, -, -, unclaimed, -⟩ := State.claimCheck_ok hn
  have own := taken.unreferred
  unfold State.claimAccepted
  dsimp only
  split
  · rename_i opened
    refine (State.grant_references own ?_ _).right none r
    refine Option.eq_none_iff_forall_ne_some.mpr fun j hj => ?_
    obtain ⟨q, hq⟩ := r.held n j hj
    cases (form.unheld opened).symm.trans hq
  · split
    · exact (own.answer (.refl s) _ _ _).right none r
    · split
      · exact (own.answer (.refl s) _ _ _).right none r
      · refine r.setRegion ?_ (r.held n) (fun c hc => ?_) (fun q j hq hj => .inl ⟨hq, hj⟩) (fun q j h => .inl h)
        · rw [List.map_append]
          refine List.nodup_append.mpr ⟨r.once n, List.nodup_singleton _, fun q hq o ho => ?_⟩
          obtain ⟨d, hd, rfl⟩ := List.mem_map.mp hq
          rw [List.map_singleton, List.mem_singleton] at ho
          rw [ho]
          simpa using List.any_eq_false.mp unclaimed d hd
        · refine (List.mem_append.mp hc).imp id fun new => ?_
          rw [List.mem_singleton] at new
          subst new
          exact ⟨taken.waiting, taken.kind,
            taken.region.trans (State.regionOf_of_named (State.named_of_claimCheck hn))⟩

theorem State.release_refersRight {s : State} {p : Port} {k : Slot} {b : Byte} {n : RegionId}
    (r : s.RefersRight none) (taken : s.Takes p k (.release b)) (hn : s.heldLease p b = .ok n) :
    (s.released p k n).RefersRight none := by
  obtain ⟨-, holder⟩ := State.heldLease_ok hn
  unfold State.released
  dsimp only
  split
  · refine (State.leaseEnd_references fun j hj => ?_).right none r
    cases hj
    exact .inl taken.unreferred.loose
  · refine r.setRegion (r.once n) (fun _ _ => ⟨p, holder⟩) (fun c hc => .inl hc) (fun q j hq hj => ?_)
      (fun q j h => .inl h)
    cases holder.symm.trans hq
    cases hj
    exact .inr ⟨taken.waiting, taken.kind,
      taken.region.trans (State.regionOf_of_named (State.named_of_heldLease hn))⟩

/-! ### Flash requests and CANCEL (R53, R147, R148) -/

theorem State.enqueue_references {s : State} {p : Port} {k : Slot} (own : s.Unreferred p k) (d : Dev) :
    s.KeepsReferences (s.enqueue p k d) := by
  have queued : s.KeepsReferences (s.queued p k) := State.setEntry_references own.loose _
  by_cases idle : (s.seq d).state = .idle
  · rw [State.enqueue_idle idle]
    exact queued.trans (State.selectIdle_references _ d)
  · rw [State.enqueue_busy idle]
    exact queued

theorem State.cancelQueued_references {s : State} {p : Port} {k j : Slot} (own : s.Unreferred p k)
    (h : (s.entry p j).state = .queued) : s.KeepsReferences (s.cancelQueued p k j) := by
  have target : s.KeepsReferences (s.answer p j .cancelled) :=
    State.answer_references (State.loose_of_state (by rw [h]; decide)) _ _ _
  have answered : s.KeepsReferences ((s.answer p j .cancelled).answer p k .done) := own.answer target _ _ _
  unfold State.cancelQueued
  dsimp only
  split
  · exact answered
  · exact answered.trans (State.leaveRelease_references _ p j _)

theorem State.cancelClaim_references {s : State} {p : Port} {k : Slot} (own : s.Unreferred p k) (j : Slot) :
    s.KeepsReferences (s.cancelClaim p k j) := by
  unfold State.cancelClaim
  split
  · exact own.answer (.refl s) _ _ _
  · exact own.answer (s.dropClaim_references _ p _) _ _ _

theorem State.cancelled_references {s : State} {p : Port} {k : Slot} (own : s.Unreferred p k) (target : Byte) :
    s.KeepsReferences (s.cancelled p k target) := by
  cases h : s.cancelTarget p k target with
  | none =>
    unfold State.cancelled
    rw [h]
    exact own.answer (.refl s) _ _ _
  | some j =>
    rw [State.cancelled_target h]
    split
    · rename_i queued
      exact State.cancelQueued_references own queued
    · split
      · exact State.cancelClaim_references own j
      · split
        · exact own.answer (s.requestStop_references p j _) _ _ _
        · exact own.answer (.refl s) _ _ _

/-! ### The administrator's requests (R17 to R24, R123 to R130) -/

theorem State.defined_references {s : State} {p : Port} {k : Slot} (own : s.Unreferred p k) (n : RegionId)
    (f : Definition) : s.KeepsReferences (s.defined p k n f) := by
  have written : s.KeepsReferences (s.setRegion n f.region) :=
    State.setRegion_references (.of_sublist (List.nil_sublist _) (fun _ h => nomatch h) fun _ h => nomatch h)
  exact own.answer (written.trans (.of_same (by rfl) (by rfl) (by rfl))) _ _ _

/-- A retirement does not touch an entry that waits and that nothing names (R21). -/
theorem State.entry_retireAction_unreferred {s : State} {p : Port} {k : Slot} (own : s.Unreferred p k)
    (waiting : (s.entry p k).state = .waiting) (n : RegionId) : (s.retireAction n).entry p k = s.entry p k := by
  have spared : k ∉ s.retiredSlots p n := fun h => by
    obtain ⟨-, hs, -⟩ | release | claim := State.mem_retiredSlots.mp h
    · cases waiting.symm.trans hs
    · exact own (.release n) release
    · exact own (.claim n) claim
  rw [State.entry_retireAction, State.entry_retireWork, State.retiredEntry_not_mem spared, if_neg]
  rintro ⟨-, h⟩
  cases waiting.symm.trans (Entry.activeRangeOn_state h)

theorem State.retire_refersRight {s : State} {p : Port} {k : Slot} {b : Byte} {n : RegionId}
    (r : s.RefersRight none) (taken : s.Takes p k (.retire b)) (hn : s.retireCheck p b = .ok n) :
    (s.retire p k n).RefersRight none := by
  have action := s.retireAction_references n
  have right := action.right none r
  have same := State.entry_retireAction_unreferred taken.unreferred taken.waiting n
  unfold State.retire
  dsimp only
  split
  · refine right.setRegion (right.once n) (right.held n) (fun c hc => .inl hc) (fun q j hq hj => .inl ⟨hq, hj⟩)
      (fun q j h => ?_)
    cases h
    rw [same]
    exact .inr ⟨taken.waiting, taken.kind,
      taken.region.trans (State.regionOf_of_named (State.named_of_retireCheck hn))⟩
  · exact (taken.unreferred.answer (action.trans (State.freeRegion_references _ n)) _ _ _).right none r

theorem State.rightsSet_references {s : State} {p : Port} {k : Slot} (own : s.Unreferred p k) (n : RegionId)
    (rr wr : PortSet) : s.KeepsReferences (s.rightsSet p k n rr wr) := by
  have written : s.KeepsReferences (s.withRights n rr wr) :=
    (s.writeRegion_references n { s.region n with readRights := rr, writeRights := wr }).trans (.of_same rfl rfl rfl)
  have pruned : (s.withRights n rr wr).KeepsReferences ((s.withRights n rr wr).inAdmissionOrder fun t =>
      t.pruneRights n wr) := State.regroup_references (State.pruneRights_references _ n wr)
  exact own.answer (written.trans pruned) _ _ _

theorem State.profileSet_refersRight {s : State} {p : Port} {k : Slot} {b : Byte} {f : ProfileRecord}
    {x : Dev × Profile} (r : s.RefersRight none) (taken : s.Takes p k (.setProfile b f))
    (hx : s.profileCheck p b f = .ok x) : (s.profileSet p k x.1 x.2).RefersRight none := by
  have stored : (s.setProfile x.1 x.2).RefersRight none := r.of_same rfl rfl rfl
  refine (State.place_references _ x.1 _).right none (stored.setSeq fun q j h => ?_)
  cases h
  exact ⟨taken.waiting, .inl taken.kind, taken.device.trans (State.profileCheck_ok hx).1⟩

theorem State.recover_refersRight {s : State} {p : Port} {k : Slot} {b : Byte} {d : Dev} (r : s.RefersRight none)
    (taken : s.Takes p k (.recover b)) (hd : s.recoverCheck p b = .ok d) : (s.recover p k d).RefersRight none := by
  refine (State.nextReset_references _ d).right none (r.setSeq fun q j h => ?_)
  cases h
  exact ⟨taken.waiting, .inr taken.kind, taken.device.trans (State.devOf_of_recoverCheck hd)⟩

/-! ### Every request -/

/-- The action of every kind leaves right references: the kinds that can wait by what comes to name them, the others
because they name nothing anew. -/
theorem Request.act_refersRight (q : Request) {p : Port} {k : Slot} {s : State} (r : s.RefersRight none)
    (form : ∀ n, (s.region n).WellFormed) (taken : s.Takes p k q) : (q.act p k s).RefersRight none := by
  have own := taken.unreferred
  have answered : ∀ r v b, s.KeepsReferences (s.answer p k r v b) := own.answer (.refl s)
  have settled : ∀ {t}, s.KeepsReferences t → t.RefersRight none := fun h => h.right none r
  cases q with
  | claim b t w =>
    exact State.checked_refersRight r own fun n hn => State.claim_refersRight r (form n) taken hn
  | renew b t =>
    exact settled (State.checked_references own fun n _ => own.answer (s.writeRegion_references n _) _ _ _)
  | release b => exact State.checked_refersRight r own fun n hn => State.release_refersRight r taken hn
  | watch b =>
    exact settled (State.checked_references own fun n _ => own.answer (s.writeRegion_references n _) _ _ _)
  | unwatch b =>
    exact settled (State.checked_references own fun n _ => own.answer (s.writeRegion_references n _) _ _ _)
  | findNumber b => exact settled (State.checked_references own fun n _ => answered _ _ _)
  | findAddress d a => exact settled (State.checked_references own fun n _ => answered _ _ _)
  | findLabel l => exact settled (State.checked_references own fun n _ => answered _ _ _)
  | read b o n e => exact settled (State.checked_references own fun d _ => State.enqueue_references own d)
  | program b o f e x => exact settled (State.checked_references own fun d _ => State.enqueue_references own d)
  | erase b f n e => exact settled (State.checked_references own fun d _ => State.enqueue_references own d)
  | define d b n l rr wr m =>
    exact settled (State.checked_references own fun x _ => State.defined_references own x.1 x.2)
  | retire b => exact State.checked_refersRight r own fun n hn => State.retire_refersRight r taken hn
  | setRights b rr wr =>
    exact settled (State.checked_references own fun x _ => State.rightsSet_references own x.1 x.2.1 x.2.2)
  | setProfile d f => exact State.checked_refersRight r own fun x hx => State.profileSet_refersRight r taken hx
  | recover d => exact State.checked_refersRight r own fun x hx => State.recover_refersRight r taken hx
  | configure i v =>
    exact settled (State.checked_references own fun x _ =>
      own.answer (.of_same (by rfl) (by rfl) (by rfl)) _ _ _)
  | cancel x => exact settled (State.cancelled_references own x)
  | deviceInfo d => exact settled (State.checked_references own fun x _ => answered _ _ _)
  | readSetting i => exact settled (State.checked_references own fun x _ => answered _ _ _)
  | setAttention m =>
    exact settled (State.checked_references own fun x _ =>
      own.answer (.of_same (by rfl) (by rfl) (by rfl)) _ _ _)
  | unread kind params => exact r

end Sys2Proof.Machine
end

section
/-! Right references (R143) and items in transit (R159) under the commands of a link, the port reset and the resets of the
part: O59. -/

namespace Sys2Proof.Machine

/-! ### The commands of a link -/

/-- The item that a TAKE is shifting out on the port is ANSWERED (R159). -/
def State.ItemRight (s : State) (p : Port) : Prop := ∀ k, (s.link p).item = some (.answer k) →
  (s.link p).phase = .takeOut ∧ (s.entry p k).state = .answered

theorem State.ItemRight.of_empty {s : State} {p : Port} (h : (s.link p).item = none) : s.ItemRight p := fun k hk => by
  rw [h] at hk
  cases hk

/-- A link whose new record carries what it carried or what a TAKE chooses, where the answers of the port stand. -/
theorem State.ItemRight.carried {s t : State} {p : Port} (h : s.ItemRight p) (w : (s.exch p).WellFormed)
    (carries : s.Carries p (t.link p)) (stands : (s.exch p).Stands (t.exch p)) : t.ItemRight p := by
  have settled : ∀ k, (s.entry p k).state = .answered → (t.entry p k).state = .answered := fun k hk =>
    (congrArg Entry.state (stands.settled k hk)).trans hk
  intro k hk
  obtain ⟨taking, listed⟩ | ⟨was, phase⟩ := carries k hk
  · exact ⟨taking, settled k ((w.answersList k).mp listed)⟩
  · obtain ⟨taking, answered⟩ := h k was
    obtain phase | idle := phase
    · exact ⟨phase.trans taking, settled k answered⟩
    · exact absurd taking idle

/-- A port whose link and answers a command leaves. -/
theorem State.ItemRight.kept {s t : State} {p : Port} (h : s.ItemRight p) (w : (s.exch p).WellFormed)
    (item : (t.link p).item = (s.link p).item) (phase : (t.link p).phase = (s.link p).phase)
    (stands : (s.exch p).Stands (t.exch p)) : t.ItemRight p :=
  h.carried w (.of_same item (.inl phase)) stands

/-- A new link record of one port. -/
theorem State.carries_setLink {s : State} {p : Port} {l : Link} (h : s.Carries p l) (q : Port) :
    s.Carries q ((s.setLink p l).link q) := by
  rw [State.link_setLink]
  split
  · rename_i e; rw [e]; exact h
  · exact .of_same rfl (.inl rfl)

theorem State.link_delivered (s : State) (p q : Port) (item : TakeItem) : (s.delivered p item).link q = s.link q := by
  cases item <;> rfl

/-- A command of a link leaves the items right: the port's own delivery, because it empties the item. -/
theorem State.LinkNext.itemRight {s t : State} {c : Instr} (h : s.LinkNext c t) {p : Port} (items : s.ItemRight p)
    (w : (s.exch p).WellFormed) : t.ItemRight p := by
  cases h with
  | same => exact items
  | @link q l carries => exact items.carried w (State.carries_setLink carries p) (.refl _)
  | @refused q l tag kind k device region r payload carries tagged free vacant =>
    exact items.carried w (State.carries_setLink carries p)
      ((State.LinkNext.refused (c := .put q) carries tagged free vacant).stands (by simp))
  | @delivered q l item own transit empty =>
    by_cases hq : p = q
    · subst hq
      refine .of_empty ?_
      rw [State.link_delivered, State.link_setLink_same]
      exact empty
    · have link : (((s.setLink q l).delivered q item).link p) = s.link p := by
        rw [State.link_delivered, State.link_setLink, if_neg hq]
      have deliver : c ≠ .takeDelivery p := fun e => hq (Instr.takeDelivery.inj (e.symm.trans own))
      exact items.kept w (by rw [link]) (by rw [link]) ((State.LinkNext.delivered own transit empty).stands deliver)

/-- A command of a link leaves right references: an entry that it takes is named by nothing, and what it delivers is
ANSWERED. -/
theorem State.LinkNext.refersRight {s t : State} {c : Instr} (h : s.LinkNext c t) (r : s.RefersRight none)
    (items : ∀ p, s.ItemRight p) : t.RefersRight none := by
  cases h with
  | same => exact r
  | @link q l => exact r.of_same rfl rfl rfl
  | @refused q l tag kind k device region x payload carries tagged free vacant =>
    have was : (s.entry q k).state = .vacant := Exchange.vacant_of_vacantSlot vacant
    have own : (s.setLink q l).Unreferred q k := r.unreferred (by rw [was]; decide)
    have linked : s.KeepsReferences (s.setLink q l) := .of_same rfl rfl rfl
    have taken : (s.setLink q l).KeepsReferences ((s.setLink q l).setExch q
        ((s.exch q).take k tag kind device region x payload)) :=
      .of_entry own.loose fun j hj => (Exchange.entry_put (s.exch q) k j _).trans (if_neg hj)
    exact (linked.trans (own.answer taken _ _ _)).right none r
  | @delivered q l item own transit empty =>
    cases item with
    | answer k =>
      obtain ⟨-, answered⟩ := items q k transit
      have linked : s.KeepsReferences (s.setLink q l) := .of_same rfl rfl rfl
      have loose : (s.setLink q l).Loose q k :=
        State.loose_of_state (show (s.entry q k).state ≠ .waiting by rw [answered]; decide)
      exact (linked.trans (State.vacate_references loose)).right none r
    | notice n => exact r.of_same rfl rfl rfl
    | empty => exact r.of_same rfl rfl rfl

/-! ### The port reset (R150) -/

theorem Region.inherits_portReset (r : Region) (p : Port) : r.Inherits (r.portReset p) := by
  refine .of_sublist List.filter_sublist (fun _ h => ⟨h, rfl⟩) fun e h => ?_
  unfold Region.portReset at h
  dsimp only at h
  split at h
  · cases h
  · rename_i x hx
    split at h
    · cases h
    · exact hx.trans h

/-- A pending retire that stands after a port reset is another port's. -/
theorem Region.retire_portReset {r : Region} {p : Port} {e : EntryRef} (h : (r.portReset p).pendingRetire = some e) :
    e.port ≠ p := by
  unfold Region.portReset at h
  dsimp only at h
  split at h
  · cases h
  · split at h
    · cases h
    · rename_i apart
      cases h
      exact apart

/-- A waiting request that stands after a port reset stood before it and is another port's. -/
theorem Sequencer.waiting_portReset {q : Sequencer} {p : Port} {e : EntryRef}
    (h : (q.portReset p).waitingRequest = some e) : q.waitingRequest = some e ∧ e.port ≠ p := by
  unfold Sequencer.portReset at h
  dsimp only at h
  split at h
  · cases h
  · rename_i hx
    split at h
    · cases h
    · rename_i apart
      cases h
      exact ⟨hx, apart⟩

theorem State.seq_portCleared (s : State) (p : Port) (d : Dev) : (s.portCleared p).seq d = (s.seq d).portReset p := by
  cases d <;> rfl

/-- The records of the port go first; the references to the other ports' entries stay right. -/
theorem State.RefersRight.portCleared {s : State} (r : s.RefersRight none) (p : Port) :
    (s.portCleared p).RefersRight (some p) := by
  have regions : ∀ n, (s.region n).Inherits ((s.portCleared p).region n) := fun n =>
    s.region_portCleared p n ▸ (s.region n).inherits_portReset p
  refine ⟨fun n => (r.once n).sublist (regions n).ports, fun n k hk => ?_, fun x q j hq hx => ?_⟩
  · obtain ⟨hr, hh⟩ := (regions n).release k hk
    exact hh ▸ r.held n k hr
  · have was := State.refers_of_inherits regions (fun d e he => by
      rw [State.seq_portCleared] at he
      exact (Sequencer.waiting_portReset he).1) x q j hx
    have other : q ≠ p := fun e => hq (congrArg some e)
    have same : (s.portCleared p).exch q = s.exch q := (PerPort.get_set ..).trans (if_neg other)
    unfold State.entry
    rw [same]
    exact r.fits x q j (nomatch ·) was

theorem State.portReset_references (s : State) (p : Port) : (s.portCleared p).KeepsReferences (s.portReset p) := by
  rw [State.portReset_eq]
  exact State.regroup_references (State.endLeases_references _ p)

/-- After the reset of a port nothing names its entries. -/
theorem State.portReset_unreferred (s : State) (p : Port) (j : Slot) : (s.portReset p).Unreferred p j := by
  intro x hx
  have cleared := (s.portReset_references p).fewer x p j hx
  cases x with
  | claim n =>
    obtain ⟨c, hc, hp, -⟩ := cleared
    exact s.portCleared_claimless p n c hc hp
  | release n => exact (s.region_portReset_released p n).1 hx.1
  | retire n =>
    have h : ((s.portCleared p).region n).pendingRetire = some ⟨p, j⟩ := cleared
    rw [State.region_portCleared] at h
    exact Region.retire_portReset h rfl
  | device d =>
    have h : ((s.portCleared p).seq d).waitingRequest = some ⟨p, j⟩ := cleared
    rw [State.seq_portCleared] at h
    exact (Sequencer.waiting_portReset h).2 rfl

theorem State.RefersRight.portReset {s : State} (r : s.RefersRight none) (p : Port) :
    (s.portReset p).RefersRight none := by
  have right := (s.portReset_references p).right (some p) (r.portCleared p)
  refine ⟨right.once, right.held, fun x q j _ hx => ?_⟩
  by_cases hq : q = p
  · subst hq
    exact absurd hx (s.portReset_unreferred q j x)
  · exact right.fits x q j (fun e => hq (Option.some.inj e)) hx

/-! ### The resets of the part (R189) -/

theorem State.blocksReset_unreferring (admin : Option Port) (links : PerPort Link) (pending : List Instr)
    (n : RegionId) : ((State.blocksReset admin links pending).region n).queue = [] ∧
      ((State.blocksReset admin links pending).region n).release = none ∧
      ((State.blocksReset admin links pending).region n).pendingRetire = none := by
  rw [State.region_blocksReset]
  split
  · exact ⟨rfl, rfl, rfl⟩
  · split <;> exact ⟨rfl, rfl, rfl⟩

/-- The reset state names nothing. -/
theorem State.blocksReset_refersRight (admin : Option Port) (links : PerPort Link) (pending : List Instr) :
    (State.blocksReset admin links pending).RefersRight none := by
  have clear := State.blocksReset_unreferring admin links pending
  refine ⟨fun n => ?_, fun n k hk => ?_, fun x q j _ hx => ?_⟩
  · rw [(clear n).1]; exact List.nodup_nil
  · cases (clear n).2.1.symm.trans hk
  · cases x with
    | claim n =>
      obtain ⟨c, hc, -⟩ := hx
      rw [(clear n).1] at hc
      cases hc
    | release n => cases (clear n).2.1.symm.trans hx.2
    | retire n => cases (clear n).2.2.symm.trans hx
    | device d => cases d <;> cases hx

theorem State.resetAction_refersRight (s : State) (admin : Option Port) (first : Dev) :
    (s.resetAction admin first).RefersRight none :=
  ((State.place_references _ first _).trans (State.place_references _ _ _)).right none
    (State.blocksReset_refersRight _ _ _)

theorem State.resetAction_itemRight (s : State) (admin : Option Port) (first : Dev) (p : Port) :
    (s.resetAction admin first).ItemRight p := by
  refine .of_empty ?_
  rw [State.link_of_links (s.resetAction_keeps admin first).holds.links]
  cases p <;> rfl

/-! ### Every step -/

/-- Every command leaves right references. -/
theorem exec_refersRight {c : Instr} {s t : State} (e : exec c s = .next t) (r : s.RefersRight none)
    (regions : ∀ n, (s.region n).WellFormed) (items : ∀ p, s.ItemRight p) : t.RefersRight none := by
  cases hq : requestOf c with
  | some x =>
    obtain ⟨p, tag, q⟩ := x
    rw [exec_of_requestOf hq] at e
    obtain rfl | ⟨l, -, rfl⟩ | ⟨k, a, rfl⟩ := request_linkNext e
    · exact r
    · exact r.of_same rfl rfl rfl
    · exact Request.act_refersRight q (a.references.right none r) regions (a.takes r)
  | none =>
    cases hi : isInner c
    case true => exact (exec_references_of_inner hi e).right none r
    cases ht : isTransport c
    case true => exact (exec_linkNext ht e).refersRight r items
    obtain rfl | reset | ⟨p, b, rfl⟩ := isReset_of_not hq hi ht
    · obtain rfl | rfl := exec_resetnAssert_next e
      · exact r
      · exact r.of_same rfl rfl rfl
    · obtain rfl | ⟨admin, first, rfl⟩ := exec_reset_next reset e
      · exact r
      · exact s.resetAction_refersRight admin first
    · obtain rfl | ⟨-, l, -, rfl⟩ := exec_linkResetConfirm_next e
      · exact r
      · have linked : (s.setLink p l).RefersRight none := r.of_same rfl rfl rfl
        split
        · exact linked.portReset p
        · exact linked

/-- The reset of a port leaves the item of its link, and the port was shifting none out. -/
theorem State.ItemRight.portReset {s : State} {p : Port} {l : Link} (h : s.ItemRight p)
    (idle : (s.link p).phase ≠ .takeOut) (item : l.item = (s.link p).item) : ((s.setLink p l).portReset p).ItemRight p := by
  intro k hk
  rw [State.link_portReset, if_pos rfl, State.link_setLink_same] at hk
  exact absurd (h k (item.symm.trans hk)).1 idle

/-- Every command leaves the items in transit right. -/
theorem exec_itemRight {c : Instr} {s t : State} (e : exec c s = .next t) {p : Port} (h : s.ItemRight p)
    (w : (s.exch p).WellFormed) : t.ItemRight p := by
  cases hq : requestOf c with
  | some x =>
    obtain ⟨q, tag, x⟩ := x
    rw [exec_of_requestOf hq] at e
    obtain rfl | ⟨l, carries, rfl⟩ | ⟨k, a, rfl⟩ := request_linkNext e
    · exact h
    · exact h.carried w (State.carries_setLink carries p) (.refl _)
    · have carries : s.Carries p ((s.received q tag x).link p) :=
        State.carries_setLink (.of_awaits a.awaits (by rfl)) p
      have taken : (s.admitted q tag x k).ItemRight p := h.carried w carries (a.stands p)
      have kept := Request.act_keepsExchanges x q k (s := s.admitted q tag x k) (by rw [State.entry_admitted_same])
      obtain ⟨item, phase⟩ := kept.items p
      exact taken.kept ((a.stands p).form w).1 item phase (kept.exchs p).stands
  | none =>
    cases hi : isInner c
    case true =>
      have kept := (exec_keeps_of_inner hi e).exchanges
      obtain ⟨item, phase⟩ := kept.items p
      exact h.kept w item phase (kept.exchs p).stands
    cases ht : isTransport c
    case true => exact (exec_linkNext ht e).itemRight h w
    obtain rfl | reset | ⟨q, b, rfl⟩ := isReset_of_not hq hi ht
    · obtain rfl | rfl := exec_resetnAssert_next e
      · exact h
      · refine .of_empty ?_
        cases p <;> rfl
    · obtain rfl | ⟨admin, first, rfl⟩ := exec_reset_next reset e
      · exact h
      · exact s.resetAction_itemRight admin first p
    · obtain rfl | ⟨shifts, l, hl, rfl⟩ := exec_linkResetConfirm_next e
      · exact h
      · have idle : (s.link q).phase ≠ .takeOut := by rw [shifts.inPhase]; decide
        have item : l.item = (s.link q).item := by rw [hl]
        have linked : (s.setLink q l).ItemRight p :=
          h.carried w (State.carries_setLink (.of_same item (.inr idle)) p) (.refl _)
        split
        · by_cases hp : p = q
          · subst hp
            exact h.portReset idle item
          · have link : ((s.setLink q l).portReset q).link p = (s.setLink q l).link p :=
              (State.link_portReset ..).trans (if_neg hp)
            exact linked.kept w (by rw [link]) (by rw [link]) (State.portReset_stands (s.setLink q l) hp)
        · exact linked

/-- Settles O59: a step keeps WaitsReferred as it leaves the references right and the items in transit ANSWERED. -/
theorem stepsKeepTheReferences : Obligations.StepsKeepTheReferences := by
  intro s t exchs regions w e
  unfold step at e
  split at e
  · cases e
    have same : s.idle = s ∨ s.idle = s.setBus s.bus.clock := by
      unfold State.idle
      split
      · exact .inr rfl
      · exact .inl rfl
    obtain same | same := same <;> rw [same]
    · exact w
    · exact ⟨w.claims, w.releases, w.retires, w.devices, w.items⟩
  · rename_i rest _
    have right : ({ s with pending := rest } : State).RefersRight none :=
      (w.refersRight regions).of_same rfl rfl rfl
    have items : ∀ p, ({ s with pending := rest } : State).ItemRight p := w.items
    exact (exec_refersRight e right regions items).waitsReferred fun p => exec_itemRight e (items p) (exchs p)

end Sys2Proof.Machine
end

section
/-! The transactions of a host link (R152, R154, R156 to R161, R165): how the select line and the lead byte begin and
end them, and which frames the receiver takes and discards: O9 and O11. -/

namespace Sys2Proof.Machine

/-! ### The select line (R152, R154, R158) -/

theorem exec_selectFall {s : State} {p : Port} (resetn : s.resetn = true) (high : (s.link p).selectLow = false) :
    exec (.selectFall p) s = .next (s.setLink p { s.link p with
      selectLow := true, bits := [], phase := .lead, kind := none, count := 0, item := none,
      shiftOut := [s.linkStatus p] }) := by
  have fallen : s.selectFallen p = s.setLink p _ := if_pos resetn
  rw [← fallen]
  exact whenDue_true (effect := fun s => s.selectFallen p) (by rw [high]; rfl)

theorem exec_selectRise {s : State} {p : Port} (resetn : s.resetn = true) (low : (s.link p).selectLow = true) :
    exec (.selectRise p) s = .next (s.setLink p (s.link p).risen) := by
  have risen : s.selectRisen p = s.setLink p (s.link p).risen := if_pos resetn
  rw [← risen]
  exact whenDue_true (effect := fun s => s.selectRisen p) low

theorem Phase.inPut_iff (x : Phase) : x.inPut = true ↔ x = .putHeader ∨ x = .putBody ∨ x = .putCheck := by
  cases x <;> simp [Phase.inPut]

/-- The rise in a PUT whose frame is not complete also drops what came of it (R158). -/
theorem Link.risen_inPut {l : Link} (h : l.phase.inPut = true) : l.risen = { l with
    selectLow := false, bits := [], phase := .idle, kind := none, count := 0, item := none, shiftOut := [],
    rxBuffer := [], flags := { l.flags with frameError := true } } := by
  unfold Link.risen
  rw [if_pos h]
  rfl

theorem Link.risen_outside {l : Link} (h : l.phase.inPut = false) : l.risen = { l with
    selectLow := false, bits := [], phase := .idle, kind := none, count := 0, item := none, shiftOut := [] } := by
  unfold Link.risen
  rw [h]
  rfl

/-! ### The lead byte (R154, R192) -/

theorem State.leadCompletes_eq {s : State} {p : Port} (h : s.Shifts p .lead) (lead : Byte) :
    s.leadCompletes p lead = s.decoded p lead := State.byteIn_whole h lead _

/-- The four lead bytes of the table of R192. -/
theorem exec_lead {s : State} {p : Port} (h : s.Shifts p .lead) :
    exec (.put p) s = .next (s.leadCompletes p 0x51#8) ∧ exec (.linkReset p) s = .next (s.leadCompletes p 0x52#8) ∧
    exec (.status p) s = .next (s.leadCompletes p 0x53#8) ∧ exec (.take p) s = .next (s.leadCompletes p 0x54#8) := by
  have due := (s.shifts_iff p .lead).mpr h
  have completes : ∀ lead, whenDue (s.shifts p .lead) (fun s => s.leadCompletes p lead) s =
      .next (s.leadCompletes p lead) := fun _ => whenDue_true due
  exact ⟨completes _, completes _, completes _, completes _⟩

/-- Every other byte names no transaction (R154). -/
theorem leadKind_none {b : Byte} (put : b ≠ 0x51#8) (reset : b ≠ 0x52#8) (status : b ≠ 0x53#8) (take : b ≠ 0x54#8) :
    leadKind b = none := by
  simp only [leadKind, leadPut, leadLinkReset, leadStatus, leadTake, put, reset, status, take, if_false]

theorem exec_unknownLead {s : State} {p : Port} {lead : Byte} (h : s.Shifts p .lead) (unknown : leadKind lead = none) :
    exec (.unknownLead p lead) s = .next (s.leadCompletes p lead) := by
  refine whenDue_true (effect := fun s => s.leadCompletes p lead) ?_
  rw [(s.shifts_iff p .lead).mpr h, namesTransaction, unknown]
  rfl

theorem State.decoded_unknown (s : State) (p : Port) {lead : Byte} (unknown : leadKind lead = none) :
    s.decoded p lead = s.setLink p { s.link p with phase := .ignored, count := 0, shiftOut := [] } := by
  unfold State.decoded
  rw [unknown]

/-- A TAKE begins with the item that it chooses (R159). -/
theorem State.decoded_take {s : State} {p : Port} {item : TakeItem} (chosen : s.chosenItem p = item) :
    s.decoded p 0x54#8 = s.setLink p { s.link p with
      phase := .takeOut, kind := some .take, count := 0, item := some item, shiftOut := s.frameOf p item } := by
  rw [← chosen]
  rfl

/-! The choice of a TAKE (R159): the head answer, else the head notice, else the empty frame. -/

theorem State.chosenItem_answer {s : State} {p : Port} {k : Slot} {rest : List Slot}
    (h : (s.exch p).answers = k :: rest) : s.chosenItem p = .answer k := by
  unfold State.chosenItem
  rw [h]

theorem State.chosenItem_notice {s : State} {p : Port} {r : Notice} {rest : List Notice}
    (unanswered : (s.exch p).answers = []) (h : s.noticeList p = r :: rest) : s.chosenItem p = .notice r := by
  unfold State.chosenItem
  rw [unanswered, h]

theorem State.chosenItem_empty {s : State} {p : Port} (unanswered : (s.exch p).answers = []) (h : s.noticeList p = []) :
    s.chosenItem p = .empty := by
  unfold State.chosenItem
  rw [unanswered, h]

/-- Settles O9: the two edges of the select line, the latter by whether a frame is cut short, and the lead bytes. -/
theorem linkTransactionsBeginAndEnd : Obligations.LinkTransactionsBeginAndEnd := by
  refine ⟨fun s p resetn => ⟨exec_selectFall resetn, fun low cut => ?cut, fun low header body check => ?whole⟩,
    fun s p h => ?lead⟩
  case cut => rw [exec_selectRise resetn low, Link.risen_inPut ((Phase.inPut_iff _).mpr cut)]
  case whole =>
    have outside : (s.link p).phase.inPut = false := by
      rw [← Bool.not_eq_true, Phase.inPut_iff]
      exact fun cut => cut.elim header (·.elim body check)
    rw [exec_selectRise resetn low, Link.risen_outside outside]
  case lead =>
    obtain ⟨put, reset, status, take⟩ := exec_lead h
    refine ⟨put, reset, status, take, ?_⟩
    simp only [State.leadCompletes_eq h]
    refine ⟨rfl, fun k rest answers => ?_, fun r rest unanswered notices => ?_, fun unanswered empty => ?_, rfl, rfl,
      fun lead noPut noReset noStatus noTake => ?_⟩
    · exact State.decoded_take (State.chosenItem_answer answers)
    · exact State.decoded_take (State.chosenItem_notice unanswered notices)
    · exact State.decoded_take (State.chosenItem_empty unanswered empty)
    · have unknown := leadKind_none noPut noReset noStatus noTake
      exact ⟨State.leadCompletes_eq h lead ▸ exec_unknownLead h unknown, s.decoded_unknown p unknown⟩

/-! ### Bits (R152) -/

/-- A select line that is high has every bit ignored. -/
theorem Link.shiftIn_high {l : Link} (high : l.selectLow = false) (bits : List Bool) : l.shiftIn bits = (l, []) := by
  induction bits with
  | nil => rfl
  | cons b rest ih =>
    have ignored : l.sample b = (l, none) := if_pos (by rw [high]; rfl)
    simp only [Link.shiftIn, ignored, ih]
    rfl

/-- Bits that complete no byte are held. -/
theorem Link.shiftIn_part (bits : List Bool) {l : Link} (low : l.selectLow = true)
    (part : l.bits.length + bits.length ≤ 7) : l.shiftIn bits = ({ l with bits := l.bits ++ bits }, []) := by
  induction bits generalizing l with
  | nil => rw [List.append_nil]; rfl
  | cons b rest ih =>
    rw [List.length_cons] at part
    have held : l.sample b = ({ l with bits := l.bits ++ [b] }, none) := by
      unfold Link.sample
      rw [if_neg (by simp [low]), if_pos (by omega)]
    have more : ({ l with bits := l.bits ++ [b] } : Link).shiftIn rest = _ :=
      ih low (by simp only [List.length_append, List.length_singleton]; omega)
    simp only [Link.shiftIn, held, more, List.append_assoc]
    rfl

/-- The number that eight bits spell, most significant first. -/
theorem byteOf_eight (b7 b6 b5 b4 b3 b2 b1 b0 : Bool) : byteOf [b7, b6, b5, b4, b3, b2, b1, b0] =
    BitVec.ofNat 8 (128 * b7.toNat + 64 * b6.toNat + 32 * b5.toNat + 16 * b4.toNat + 8 * b3.toNat + 4 * b2.toNat +
      2 * b1.toNat + b0.toNat) := by
  revert b7 b6 b5 b4 b3 b2 b1 b0
  decide +kernel

/-- Eight bits spell the byte whose bits they are. -/
theorem bitsOf_byteOf (b7 b6 b5 b4 b3 b2 b1 b0 : Bool) :
    bitsOf (byteOf [b7, b6, b5, b4, b3, b2, b1, b0]) = [b7, b6, b5, b4, b3, b2, b1, b0] := by
  revert b7 b6 b5 b4 b3 b2 b1 b0
  decide +kernel

/-! ### Frames that are discarded (R158) -/

/-- What the receiver discards leaves its trace in the link record alone. -/
theorem State.receiveFrame_discarded {s : State} {p : Port} {bytes : List Byte} {l : Link}
    (h : (s.link p).awaitsFrame = true) (discarded : (s.link p).receive bytes = .discarded l) (next : State → State) :
    s.receiveFrame p bytes next = s.setLink p l := by
  rw [receiveFrame_bytes s p h, discarded]

theorem exec_frameTooLong {s : State} {p : Port} {declared : Half} (resetn : s.resetn = true)
    (awaits : (s.link p).awaitsFrame = true) (long : 288 < declared.toNat) (tag kind : Byte) :
    exec (.frameTooLong p tag kind declared) s =
      .next (s.setLink p { ((s.link p).afterHead tag kind declared).dropFrame with phase := .ignored }) := by
  have discarded := Link.receive_frameHead _ awaits tag kind declared
  rw [if_pos (show Config.maxDeclared < declared.toNat from long)] at discarded
  rw [← State.receiveFrame_discarded awaits discarded id]
  refine whenDue_true (effect := fun s => s.receiveFrame p (frameHead tag kind declared) id) ?_
  rw [(frameDue_iff s p).mpr ⟨resetn, awaits⟩, Bool.true_and]
  exact decide_eq_true long

theorem exec_checkMismatch {s : State} {p : Port} {tag kind : Byte} {params : List Byte} {check : Half}
    (resetn : s.resetn = true) (awaits : (s.link p).awaitsFrame = true) (short : params.length ≤ 288)
    (differs : crc16 (frameBody tag kind params) ≠ check) :
    exec (.checkMismatch p tag kind params check) s = .next (s.setLink p { s.link p with
      phase := .ignored, count := 0, rxBuffer := [], crc := crc16 (frameBody tag kind params),
      declared := BitVec.ofNat 16 params.length, flags := { (s.link p).flags with frameError := true } }) := by
  have discarded := Link.receive_frameWith _ awaits tag kind params short check differs
  rw [← State.receiveFrame_discarded awaits discarded id]
  refine whenDue_true (effect := fun s => s.receiveFrame p (frameWith tag kind params check) id) ?_
  rw [(frameDue_iff s p).mpr ⟨resetn, awaits⟩, Bool.true_and, Bool.and_eq_true, bne_iff_ne]
  exact ⟨decide_eq_true short, differs⟩

/-- Settles O11: bits that are held, that complete a byte and that are ignored, the two kinds of discarded frames, and
the frame that is taken. -/
theorem receiverDiscardsBadFrames : Obligations.ReceiverDiscardsBadFrames := by
  refine ⟨fun l b7 b6 b5 b4 b3 b2 b1 b0 whole => ⟨fun low => ⟨?seven, ?eight⟩, fun high => Link.shiftIn_high high _⟩,
    fun s p tag kind c resetn awaits bad => ?discarded,
    fun l tag kind params check awaits short => ⟨fun own => ?taken, fun differs => ?mismatch⟩⟩
  case seven => rw [Link.shiftIn_part _ low (by rw [whole]; exact le_rfl), whole, List.nil_append]
  case eight =>
    have completes := Link.shiftIn_byte l low whole (byteOf [b7, b6, b5, b4, b3, b2, b1, b0]) []
    rw [List.append_nil, bitsOf_byteOf] at completes
    rw [completes, byteOf_eight]
    rfl
  case discarded =>
    obtain ⟨declared, long, rfl⟩ | ⟨params, check, short, differs, rfl⟩ := bad
    · exact ⟨_, _, exec_frameTooLong resetn awaits long tag kind⟩
    · exact ⟨_, _, exec_checkMismatch resetn awaits short differs⟩
  case taken => rw [own]; exact Link.receive_frameGood l awaits tag kind params short
  case mismatch => exact ⟨_, Link.receive_frameWith l awaits tag kind params short check differs.symm⟩

end Sys2Proof.Machine
end

section
/-! What a host reads of a link: the status bytes and the attention line (R155, R161 to R164, R192), and the data output
with the frames of a TAKE (R152, R159, R191, R192): O10 and O24. -/

namespace Sys2Proof.Machine

/-! ### Flags and bits of a status byte -/

theorem State.deviceFault_iff (s : State) :
    s.deviceFault = true ↔ (s.seq .d0).state = .faulted ∨ (s.seq .d1).state = .faulted := by
  unfold State.deviceFault
  rw [Bool.or_eq_true, beq_iff_eq, beq_iff_eq]
  rfl

theorem LinkFlags.any_iff (f : LinkFlags) :
    f.any = true ↔ f.overrun = true ∨ f.frameError = true ∨ f.tagClash = true := by
  unfold LinkFlags.any
  rw [Bool.or_eq_true, Bool.or_eq_true, or_assoc]

/-- A number in the places from i up and a number below place i do not meet: together they are their sum. -/
theorem toNat_or_low {x y : Byte} {i : Nat} (high : 2 ^ i ∣ x.toNat) (low : y.toNat < 2 ^ i) :
    (x ||| y).toNat = x.toNat + y.toNat := by
  obtain ⟨a, ha⟩ := high
  rw [BitVec.toNat_or, ha, Nat.two_pow_add_eq_or_of_lt low]

theorem toNat_bitAt {i : Nat} (h : i < 8) (b : Bool) : (bitAt i b).toNat = if b then 2 ^ i else 0 := by
  cases b
  · rfl
  · have fits : 2 ^ i < 2 ^ 8 := Nat.pow_lt_pow_right (by decide) h
    simpa [bitAt, Nat.one_shiftLeft] using fits

/-- A flag above the rest of a status byte adds its weight, and the byte stays below the next place. -/
theorem toNat_bitAt_or {i : Nat} (h : i < 8) (b : Bool) {x : Byte} (low : x.toNat < 2 ^ i) :
    (bitAt i b ||| x).toNat = (if b then 2 ^ i else 0) + x.toNat ∧ (bitAt i b ||| x).toNat < 2 ^ (i + 1) := by
  have weight := toNat_bitAt h b
  have sum : (bitAt i b ||| x).toNat = (if b then 2 ^ i else 0) + x.toNat := by
    rw [← weight]
    refine toNat_or_low ?_ low
    rw [weight]
    split
    · exact dvd_rfl
    · exact dvd_zero _
  refine ⟨sum, ?_⟩
  rw [sum, Nat.pow_succ]
  split <;> omega

/-! ### The status bytes (R155, R161) -/

theorem State.vacantCount_le (s : State) (p : Port) : (s.exch p).vacantCount ≤ 8 :=
  List.countP_le_length.trans_eq (List.length_finRange (n := Config.slotCount))

theorem State.toNat_linkStatus (s : State) (p : Port) : (s.linkStatus p).toNat =
    (if s.deviceFault then 128 else 0) + (if (s.link p).flags.any then 64 else 0) +
    (if !(s.noticeList p).isEmpty then 32 else 0) + (if !(s.exch p).answers.isEmpty then 16 else 0) +
    (s.exch p).vacantCount := by
  have few := s.vacantCount_le p
  have count : (BitVec.ofNat 8 (s.exch p).vacantCount).toNat = (s.exch p).vacantCount := by
    rw [BitVec.toNat_ofNat]; omega
  obtain ⟨bit4, lt4⟩ := toNat_bitAt_or (i := 4) (by decide) (!(s.exch p).answers.isEmpty)
    (x := BitVec.ofNat 8 (s.exch p).vacantCount) (by rw [count]; omega)
  obtain ⟨bit5, lt5⟩ := toNat_bitAt_or (i := 5) (by decide) (!(s.noticeList p).isEmpty) lt4
  obtain ⟨bit6, lt6⟩ := toNat_bitAt_or (i := 6) (by decide) (s.link p).flags.any lt5
  obtain ⟨bit7, -⟩ := toNat_bitAt_or (i := 7) (by decide) s.deviceFault lt6
  simp only [State.linkStatus, BitVec.or_assoc]
  rw [bit7, bit6, bit5, bit4, count]
  simp only [Nat.reducePow, Nat.add_assoc]

theorem State.toNat_secondStatus {s : State} {p : Port} (h : (s.exch p).answers.length ≤ 8) :
    (s.secondStatus p).toNat = 16 * (s.exch p).answers.length + (if s.admin == some p then 8 else 0) +
      (if (s.link p).flags.tagClash then 4 else 0) + (if (s.link p).flags.frameError then 2 else 0) +
      (if (s.link p).flags.overrun then 1 else 0) := by
  have bit0 := toNat_bitAt (i := 0) (by decide) (s.link p).flags.overrun
  obtain ⟨bit1, lt1⟩ := toNat_bitAt_or (i := 1) (by decide) (s.link p).flags.frameError
    (x := bitAt 0 (s.link p).flags.overrun) (by rw [bit0]; split <;> decide)
  obtain ⟨bit2, lt2⟩ := toNat_bitAt_or (i := 2) (by decide) (s.link p).flags.tagClash lt1
  obtain ⟨bit3, lt3⟩ := toNat_bitAt_or (i := 3) (by decide) (s.admin == some p) lt2
  have count : (BitVec.ofNat 8 (s.exch p).answers.length <<< 4).toNat = 16 * (s.exch p).answers.length := by
    rw [BitVec.toNat_shiftLeft, BitVec.toNat_ofNat, Nat.shiftLeft_eq]
    omega
  simp only [State.secondStatus, BitVec.or_assoc]
  rw [toNat_or_low (i := 4) (count ▸ Dvd.intro _ rfl) lt3, count, bit3, bit2, bit1, bit0]
  simp only [Nat.reducePow, Nat.add_assoc]

theorem State.toNat_noticeCountByte {s : State} {p : Port} (h : (s.noticeList p).length ≤ 32) :
    (s.noticeCountByte p).toNat = (s.noticeList p).length := by
  unfold State.noticeCountByte
  rw [BitVec.toNat_ofNat]
  omega

/-! ### The attention line (R163, R164) -/

theorem State.attention_iff (s : State) (p : Port) : s.attention p = true ↔ s.resetn = true ∧
    (((s.exch p).answers ≠ [] ∧ (s.link p).mask.answers = false) ∨
     (s.noticeList p ≠ [] ∧ (s.link p).mask.notices = false) ∨
     ((s.link p).flags.any = true ∧ (s.link p).mask.flags = false)) := by
  unfold State.attention
  simp only [Bool.and_eq_true, Bool.or_eq_true, Bool.not_eq_true', List.isEmpty_eq_false_iff, or_assoc]

/-- Settles O10: each status byte as the sum of its bits, and the attention line by its classes. -/
theorem statusBytesAndAttentionFollowTheRecords : Obligations.StatusBytesAndAttentionFollowTheRecords := by
  refine ⟨fun s p answers notices => ⟨?status, ?second, State.toNat_noticeCountByte notices⟩, fun s p => ?attention⟩
  case status =>
    rw [State.toNat_linkStatus]
    simp only [State.deviceFault_iff, LinkFlags.any_iff, Bool.not_eq_true', List.isEmpty_eq_false_iff]
    rfl
  case second =>
    rw [State.toNat_secondStatus answers]
    simp only [beq_iff_eq]
  case attention => rw [State.attention_iff, LinkFlags.any_iff]

/-! ### The data output (R152, R153, R189, R192) -/

theorem getD_bitsOf (b : Byte) {i : Nat} (h : i < 8) (rest : List Bool) :
    (bitsOf b ++ rest).getD i false = b.getLsbD (7 - i) := by
  interval_cases i <;> rfl

/-- Bit i of byte j stands at place 8 * j + i of the bits of the bytes, and past the last byte there are zeros. -/
theorem getD_flatMap_bitsOf (bytes : List Byte) (j : Nat) {i : Nat} (h : i < 8) :
    (bytes.flatMap bitsOf).getD (8 * j + i) false = (bytes.getD j 0#8).getLsbD (7 - i) := by
  induction bytes generalizing j with
  | nil => simp
  | cons b rest ih =>
    cases j with
    | zero => rw [Nat.mul_zero, Nat.zero_add]; exact getD_bitsOf b h _
    | succ j =>
      have past : 8 * (j + 1) + i = (bitsOf b).length + (8 * j + i) := by
        rw [show (bitsOf b).length = 8 from rfl]; omega
      rw [List.flatMap_cons, past, List.getD_append_right _ _ _ _ (Nat.le_add_right ..), Nat.add_sub_cancel_left, ih]
      rfl

theorem Link.outBit_eq (l : Link) {edge j i : Nat} (place : l.bits.length + edge = 8 * j + i) (h : i < 8) :
    l.outBit edge = (l.shiftOut.getD j 0#8).getLsbD (7 - i) := by
  rw [← getD_flatMap_bitsOf l.shiftOut j h, ← place]
  simp [Link.outBit, List.getD_eq_getElem?_getD, List.getElem?_drop]

theorem State.dataOut_driven {s : State} {p : Port} (resetn : s.resetn = true) (low : (s.link p).selectLow = true) :
    s.dataOut p = .drive ((s.link p).outBit 0) := if_pos (by rw [resetn, low]; rfl)

theorem State.dataOut_released {s : State} {p : Port} (h : s.resetn = false ∨ (s.link p).selectLow = false) :
    s.dataOut p = .released := if_neg (by
  rcases h with h | h <;> simp [h])

/-! ### The frames of a TAKE (R159, R191) -/

/-- The two bytes of a number are its quotient and its rest by 256. -/
theorem halfOf_eq (n : Nat) : halfOf n = [BitVec.ofNat 8 (n / 256), BitVec.ofNat 8 n] := by
  have high : (BitVec.ofNat 16 n).extractLsb' 8 8 = BitVec.ofNat 8 (n / 256) := by
    apply BitVec.eq_of_toNat_eq
    simp only [BitVec.extractLsb'_toNat, BitVec.toNat_ofNat, Nat.shiftRight_eq_div_pow]
    omega
  have low : (BitVec.ofNat 16 n).extractLsb' 0 8 = BitVec.ofNat 8 n := by
    apply BitVec.eq_of_toNat_eq
    simp only [BitVec.extractLsb'_toNat, BitVec.toNat_ofNat, Nat.shiftRight_eq_div_pow]
    omega
  rw [halfOf, halfBytes, high, low]

/-- A frame that the part sends: its header and values, and the check bytes of both (R191). -/
theorem outFrame_eq (tag kind result : Byte) (number : Half) {values body : List Byte}
    (h : body = [tag, kind, result, number.extractLsb' 8 8, number.extractLsb' 0 8,
      BitVec.ofNat 8 (values.length / 256), BitVec.ofNat 8 values.length] ++ values) :
    outFrame tag kind result number values = body ++ halfBytes (crc16 body) := by
  rw [h, outFrame, halfOf_eq]
  rfl

theorem answerFrame_eq {e : Entry} {tag kind : Byte} {r : Result} {number : Half} (htag : e.tag = some tag)
    (hkind : e.kind = some kind) (hresult : e.result = some r) (hnumber : e.number = some number) :
    answerFrame e = outFrame tag kind r.code number (e.values.wire e.payload) := by
  rw [answerFrame, htag, hkind, hresult, hnumber]
  rfl

/-- A notice frame has four value bytes (R191). -/
theorem noticeFrame_eq {n : RegionId} {kind : NoticeKind} {g : Half} {body : List Byte}
    (h : body = [0x00#8, 0x80#8, 0x00#8, 0x00#8, 0x00#8, 0x00#8, 0x04#8, BitVec.ofNat 8 n.val, kind.code,
      g.extractLsb' 8 8, g.extractLsb' 0 8]) :
    noticeFrame ⟨n, kind, g⟩ = body ++ halfBytes (crc16 body) :=
  outFrame_eq 0#8 0x80#8 0#8 0#16 (h.trans (by simp [halfBytes]))

/-- Settles O24: the bits by their place in the bytes to send, the frames by their header and check bytes, and the codes
and value bytes row by row. -/
theorem takeFramesAndDataOutputCarryTheirBytes : Obligations.TakeFramesAndDataOutputCarryTheirBytes := by
  refine ⟨⟨fun s p => ⟨State.dataOut_driven, State.dataOut_released⟩, fun l edge j i => l.outBit_eq⟩,
    ⟨fun e tag kind r number v body htag hkind hresult hnumber hv hbody _ => ?answer,
      fun n kind g body hbody => ?notice, ?empty⟩, ⟨rfl, rfl⟩, fun b g e o i n t c r m => ?values⟩
  case answer =>
    rw [answerFrame_eq htag hkind hresult hnumber, ← hv]
    exact outFrame_eq tag kind r.code number hbody
  case notice => exact noticeFrame_eq hbody
  case empty => decide +kernel
  case values =>
    exact ⟨rfl, fun _ => rfl, rfl, rfl, rfl, rfl, rfl, rfl, rfl, rfl, rfl, rfl, rfl, rfl, rfl, rfl, rfl, rfl, rfl⟩

end Sys2Proof.Machine
end

section
/-! The watch set of a region and the postings to a Notice List (R172, R173, R177): O23 and O52. -/

namespace Sys2Proof.Machine

/-! ### A posting in a Notice List (R177) -/

/-- A posting passes over the records of other regions. -/
theorem postTo_append {x : Notice} {before : List Notice} (h : ∀ y ∈ before, y.region ≠ x.region)
    (after : List Notice) : postTo x (before ++ after) = before ++ postTo x after := by
  induction before with
  | nil => rfl
  | cons y before ih =>
    obtain ⟨hy, rest⟩ := List.forall_mem_cons.mp h
    rw [List.cons_append, postTo, if_neg hy, ih rest, List.cons_append]

/-- A posting coalesces with a record of its region. -/
theorem postTo_cons_same {x r : Notice} (h : r.region = x.region) (after : List Notice) :
    postTo x (r :: after) = ⟨r.region, r.kind.worse x.kind, x.generation⟩ :: after := if_pos h

theorem postTo_ne_nil (x : Notice) (l : List Notice) : postTo x l ≠ [] := by
  cases l with
  | nil => exact List.cons_ne_nil _ _
  | cons r rest =>
    rw [postTo]
    split <;> exact List.cons_ne_nil _ _

/-- RETIRED is worse than LEASE_LOST, which is worse than CHANGED. -/
theorem NoticeKind.worse_eq (a b : NoticeKind) : a.worse b =
    if a = .retired ∨ b = .retired then .retired
    else if a = .leaseLost ∨ b = .leaseLost then .leaseLost else .changed := by
  cases a <;> cases b <;> rfl

/-! ### The attention line under a posting (R163) -/

/-- A posting moves no attention line where a notice stands already, nor that of another port. -/
theorem State.attention_post {s : State} {p q : Port} (x : Notice) (h : q = p → s.noticeList q ≠ []) :
    (s.post p x).attention q = s.attention q := by
  have stands : (s.post p x).noticeList q ≠ [] ↔ s.noticeList q ≠ [] := by
    rw [State.noticeList_post]
    split
    case isTrue same => exact iff_of_true (postTo_ne_nil _ _) (h same)
    case isFalse => rfl
  rw [Bool.eq_iff_iff, State.attention_iff, State.attention_iff, stands]
  rfl

/-- Settles O52: the posting passes over the records of other regions and meets the record of its own or the end of the
list; a line follows the list by whether it is empty. -/
theorem postingsCoalesceByRegion : Obligations.PostingsCoalesceByRegion := by
  refine fun s p x => ⟨fun absent => ?tail, fun before r after list same others => ⟨?record, fun q => ?still⟩,
    fun resetn unmasked => ?rises, fun q other => ⟨?list, ?line⟩⟩
  case tail =>
    have passed := postTo_append absent []
    rw [List.append_nil] at passed
    rw [State.noticeList_post, if_pos rfl, passed]
    rfl
  case record =>
    rw [State.noticeList_post, if_pos rfl, list, postTo_append others, postTo_cons_same same, NoticeKind.worse_eq]
  case still =>
    refine State.attention_post x ?_
    rintro rfl
    simp [list]
  case rises =>
    have stands : (s.post p x).noticeList p ≠ [] := by
      rw [State.noticeList_post, if_pos rfl]
      exact postTo_ne_nil _ _
    exact (State.attention_iff _ p).mpr ⟨resetn, .inr (.inl ⟨stands, unmasked⟩)⟩
  case list => rw [State.noticeList_post, if_neg other]
  case line => exact State.attention_post x (absurd · other)

/-! ### WATCH and UNWATCH (R172, R173) -/

/-- The checks of WATCH on a named region, in order (R172). -/
theorem State.watchCheck_some {s : State} {b : Byte} {n : RegionId} (h : s.named b = some n) (p : Port) :
    s.watchCheck p b =
      if (s.region n).state = .retiring then .error .retired
      else if (s.region n).readRights.has p = false then .error .noRight
      else .ok n := by
  simp only [State.watchCheck, h, Bool.not_eq_true']

/-- A WATCH that fails a check is answered with the refusal (R11, R172). -/
theorem exec_watch_refused {s : State} {p : Port} {tag b : Byte} {k : Slot} {r : Result}
    (a : s.Admits p tag (.watch b) k) (check : s.watchCheck p b = .error r) :
    exec (.watch p tag b) s = .next ((s.admitted p tag (.watch b) k).answer p k r) :=
  exec_refused (q := .watch b) rfl a check rfl

/-- Settles O23: WATCH by the chain of its checks, UNWATCH by its naming of a region, and both where none is named. -/
theorem watchAndUnwatchChangeTheWatchSet : Obligations.WatchAndUnwatchChangeTheWatchSet := by
  refine fun s p tag b k => ⟨fun n named used a => ?watch, fun n named used a => ?unwatch,
    fun free => ⟨fun a => ?watchUnnamed, fun a => ?unwatchUnnamed⟩⟩
  case watch =>
    have chain := State.watchCheck_some (State.named_some named used) p
    split_ifs at chain ⊢
    · exact exec_watch_refused a chain
    · exact exec_watch_refused a chain
    · exact exec_carried (q := .watch b) rfl a chain rfl rfl
  case unwatch =>
    exact exec_carried (q := .unwatch b) rfl a (State.existing_some (State.named_some named used)) rfl rfl
  case watchUnnamed => exact exec_watch_refused a (State.watchCheck_none (State.named_none free) p)
  case unwatchUnnamed => exact exec_refused (q := .unwatch b) rfl a (State.existing_none (State.named_none free)) rfl

end Sys2Proof.Machine
end

section
/-! The administrator and the settings (R181, R184, R187): O26 and O32. -/

namespace Sys2Proof.Machine

/-! ### The test of the port (R187) -/

/-- A kind whose first check is that of the port answers NOT_ADMIN to every port but the administrator's, whatever its
further checks. -/
theorem State.checked_notAdmin {α : Type} {s : State} {p : Port} (h : s.admin ≠ some p) (k : Slot)
    (further : Except Result α) (act : α → State) :
    s.checked p k (if s.notAdmin p then .error .notAdmin else further) act = s.answer p k .notAdmin := by
  have other : s.notAdmin p = true := by simpa [State.notAdmin] using h
  exact State.checked_error (if_pos other)

/-- No request command carries a frame that failed test 4 of R138. -/
theorem ne_unread_of_requestOf {c : Instr} {p : Port} {tag : Byte} {q : Request}
    (h : requestOf c = some (p, tag, q)) (kind : Byte) (params : List Byte) : q ≠ .unread kind params := by
  rintro rfl
  cases c <;> cases h

/-- The kinds with the codes 31h to 36h test the port first of all (R12, R123, R127, R184, R187). -/
theorem Request.act_notAdmin {s : State} {p : Port} {q : Request} (h : s.admin ≠ some p)
    (read : ∀ kind params, q ≠ .unread kind params)
    (code : q.code = 0x31#8 ∨ q.code = 0x32#8 ∨ q.code = 0x33#8 ∨ q.code = 0x34#8 ∨ q.code = 0x35#8 ∨
      q.code = 0x36#8) (k : Slot) : q.act p k s = s.answer p k .notAdmin := by
  cases q
  case define | retire | setRights | setProfile | recover | configure => exact State.checked_notAdmin h k _ _
  case unread kind params => exact absurd rfl (read kind params)
  all_goals simp [Request.code] at code

/-- Settles O26: taking the frame leaves the selection, and each of the six kinds tests the port first. -/
theorem onlyTheAdministratorIsObeyed : Obligations.OnlyTheAdministratorIsObeyed := by
  intro s p tag q k c hc a other code
  rw [exec_admitted hc a]
  exact congrArg _ (Request.act_notAdmin (s := s.admitted p tag q k) other (ne_unread_of_requestOf hc) code k)

/-! ### The settings (R181) -/

theorem Settings.value_none {id : Nat} (h : 10 ≤ id) (x : Settings) : x.value id = none := by
  rw [Option.eq_none_iff_forall_ne_some]
  intro v hv
  exact absurd (Settings.lt_of_value hv) (Nat.not_lt.mpr h)

/-- A setting that is given a value holds it. -/
theorem Settings.value_assign_same (x : Settings) {id : Nat} (h : id < 10) (v : Nat) :
    (x.assign id v).value id = some v :=
  (x.value_assign ⟨id, h⟩ v ⟨id, h⟩).trans (if_pos rfl)

/-- Giving one setting a value leaves what every other identifier reads. -/
theorem Settings.value_assign_ne (x : Settings) {id j : Nat} (h : id < 10) (v : Nat) (ne : j ≠ id) :
    (x.assign id v).value j = x.value j := by
  by_cases hj : j < 10
  case pos => exact (x.value_assign ⟨id, h⟩ v ⟨j, hj⟩).trans (if_neg (by simpa using ne))
  case neg => rw [Settings.value_none (Nat.not_lt.mp hj), Settings.value_none (Nat.not_lt.mp hj)]

/-- A setting takes the values between its MIN and its MAX that are multiples of its step. -/
theorem settingAccepts_iff {id v : Nat} : settingAccepts id v = true ↔
    ∃ lo hi step, settingRange id = some (lo, hi, step) ∧ lo ≤ v ∧ v ≤ hi ∧ v % step = 0 := by
  unfold settingAccepts
  split
  case h_1 absent => simp [absent]
  case h_2 lo hi step range => simp [range, and_assoc]

/-! ### CONFIGURE (R184) -/

/-- A value that its setting accepts passes the checks of CONFIGURE, which read the value before. -/
theorem State.configureCheck_accepts {s : State} {p : Port} {id : Byte} {v : Half} {before : Nat}
    (admin : s.admin = some p) (held : s.settings.value id.toNat = some before)
    (accepts : settingAccepts id.toNat v.toNat = true) : s.configureCheck p id v = .ok before := by
  simp [State.configureCheck, State.notAdmin, admin, held, accepts]

/-- A value that is not accepted is refused, whether or not the identifier names a setting. -/
theorem State.configureCheck_badSetting {s : State} {p : Port} {id : Byte} {v : Half} (admin : s.admin = some p)
    (bad : settingAccepts id.toNat v.toNat = false) : s.configureCheck p id v = .error .badSetting := by
  cases held : s.settings.value id.toNat with
  | none => simp [State.configureCheck, State.notAdmin, admin, held]
  | some before => simp [State.configureCheck, State.notAdmin, admin, held, bad]

/-- Settles O32: CONFIGURE by the port, then by whether its value is accepted; the table is closed. -/
theorem configureSetsOneSetting : Obligations.ConfigureSetsOneSetting := by
  refine ⟨fun s p tag id v k a => ⟨fun other => ?notAdmin,
    fun before lo hi step admin held range low high multiple => ?accepted, fun admin bad => ?refused⟩,
    ?table, fun i large => ⟨settingRange_none large, Settings.value_none large _⟩⟩
  case notAdmin =>
    exact onlyTheAdministratorIsObeyed s p tag (.configure id v) k _ rfl a other (by simp [Request.code])
  case accepted =>
    have setting : id.toNat < 10 := Settings.lt_of_value held
    have accepts := settingAccepts_iff.mpr ⟨lo, hi, step, range, low, high, multiple⟩
    have check : (s.admitted p tag (.configure id v) k).configureCheck p id v = .ok before :=
      State.configureCheck_accepts admin held accepts
    exact ⟨s.settings.assign id.toNat v.toNat, exec_carried (q := .configure id v) rfl a check rfl rfl,
      Settings.value_assign_same _ setting _, fun j ne => Settings.value_assign_ne _ setting _ ne⟩
  case refused =>
    have unaccepted : settingAccepts id.toNat v.toNat = false := by
      rw [Bool.eq_false_iff, Ne, settingAccepts_iff]
      rintro ⟨lo, hi, step, range, low, high, multiple⟩
      obtain large | outside := bad
      · rw [settingRange_none large] at range
        cases range
      · have := outside lo hi step range
        omega
    have check : (s.admitted p tag (.configure id v) k).configureCheck p id v = .error .badSetting :=
      State.configureCheck_badSetting admin unaccepted
    exact exec_refused (q := .configure id v) rfl a check rfl
  case table => decide

end Sys2Proof.Machine
end

section
/-! A step whose queue holds a command; `step_of_empty` is the other branch of `step`. -/

namespace Sys2Proof.Machine

/-- Settles O1: a queue with a front command is the second branch of `step`, which hands the queue's rest to `exec`. -/
theorem stepRunsTheFrontCommand : Obligations.StepRunsTheFrontCommand := by
  intro c rest s queue
  unfold step
  rw [queue]

end Sys2Proof.Machine
end
